-- ==== Sys2Proof/Word.lean ====
section
/-! DEFINITION. The word types of the block (00_scope R5, R8): 16-bit words, 8-bit bytes, 4-bit register addresses. -/

namespace Sys2Proof

/-- A colour, coordinate, offset or command word: `WORD_BITS = 16` (00_scope R5). Sums wrap, as `+_16` does (R8). -/
abbrev Word := BitVec 16

/-- A byte on the bus or in the pixel FIFO: `OPC_BITS = 8` (00_scope R5). -/
abbrev Byte := BitVec 8

/-- A word address of the host register map, 0x0 to 0xF (20_memory R61). -/
abbrev RegAddr := BitVec 4

end Sys2Proof
end

