-- ==== Sys2Proof/Syntax.lean ====
section
/-! DEFINITION. The instructions: the nine host operations (30_encoding R71) and the twenty controller opcodes the
block emits (30_encoding R77), one constructor per row of the opcode table; pixel tokens (10_state R39); the lines of
the assembly language (30_encoding R81, R82). -/

namespace Sys2Proof

/-- The four orientation modes, in the order of 30_encoding R72. -/
inductive Mode
  | portrait | landscape | portraitSwapped | landscapeSwapped
  deriving DecidableEq, Repr, Inhabited

/-- The catalog names of 30_encoding R77: the commands the block emits, in the table's order. -/
inductive Command
  | swreset | slpout | frmctr1 | frmctr2 | frmctr3 | invctr
  | pwctr1 | pwctr2 | pwctr3 | pwctr4 | pwctr5 | vmctr1
  | invoff | invon | madctl | colmod | dispon | caset | raset | ramwr
  deriving DecidableEq, Repr, Inhabited

/-- The catalog in the order of 30_encoding R77's table. -/
def Command.all : List Command :=
  [.swreset, .slpout, .frmctr1, .frmctr2, .frmctr3, .invctr, .pwctr1, .pwctr2, .pwctr3, .pwctr4,
   .pwctr5, .vmctr1, .invoff, .invon, .madctl, .colmod, .dispon, .caset, .raset, .ramwr]

/-- One constructor per row of the opcode table. `orient` carries its mode (`cmd[5:4]`, R72); every other operand is in
the operand registers or on the pixel port (R75). -/
inductive Instr
  -- host operations, 16-bit command words (30_encoding R71)
  | init | orient (mode : Mode) | offset | window | pixel | wpix | wpixb | spix | spixb
  -- controller opcodes, 8 bits (30_encoding R77)
  | swreset | slpout | frmctr1 | frmctr2 | frmctr3 | invctr
  | pwctr1 | pwctr2 | pwctr3 | pwctr4 | pwctr5 | vmctr1
  | invoff | invon | madctl | colmod | dispon | caset | raset | ramwr
  deriving DecidableEq, Repr, Inhabited

/-- What `RUN(op)` names (10_state R28): a host operation, or (the model's own, log 9) a command frame run by itself. -/
inductive Op
  | init | orient | offset | window | pixel | wpix | wpixb | spix | spixb
  | frame (c : Command)
  deriving DecidableEq, Repr, Inhabited

/-- The instruction of a catalog name. -/
def Command.instr : Command → Instr
  | .swreset => .swreset | .slpout => .slpout
  | .frmctr1 => .frmctr1 | .frmctr2 => .frmctr2 | .frmctr3 => .frmctr3
  | .invctr => .invctr
  | .pwctr1 => .pwctr1 | .pwctr2 => .pwctr2 | .pwctr3 => .pwctr3 | .pwctr4 => .pwctr4
  | .pwctr5 => .pwctr5
  | .vmctr1 => .vmctr1 | .invoff => .invoff | .invon => .invon | .madctl => .madctl
  | .colmod => .colmod | .dispon => .dispon | .caset => .caset | .raset => .raset | .ramwr => .ramwr

/-- The operation of an instruction, its mode left out. -/
def Instr.op : Instr → Op
  | .init => .init | .orient _ => .orient | .offset => .offset | .window => .window
  | .pixel => .pixel | .wpix => .wpix | .wpixb => .wpixb | .spix => .spix | .spixb => .spixb
  | .swreset => .frame .swreset | .slpout => .frame .slpout
  | .frmctr1 => .frame .frmctr1 | .frmctr2 => .frame .frmctr2 | .frmctr3 => .frame .frmctr3
  | .invctr => .frame .invctr
  | .pwctr1 => .frame .pwctr1 | .pwctr2 => .frame .pwctr2 | .pwctr3 => .frame .pwctr3
  | .pwctr4 => .frame .pwctr4 | .pwctr5 => .frame .pwctr5
  | .vmctr1 => .frame .vmctr1 | .invoff => .frame .invoff | .invon => .frame .invon
  | .madctl => .frame .madctl | .colmod => .frame .colmod | .dispon => .frame .dispon
  | .caset => .frame .caset | .raset => .frame .raset | .ramwr => .frame .ramwr

/-- The instruction of an operation and a mode (`Decode(cmd)` of 30_encoding R80 gives the pair). -/
def Op.instr : Op → Mode → Instr
  | .init, _ => .init | .orient, m => .orient m | .offset, _ => .offset | .window, _ => .window
  | .pixel, _ => .pixel | .wpix, _ => .wpix | .wpixb, _ => .wpixb | .spix, _ => .spix
  | .spixb, _ => .spixb
  | .frame c, _ => c.instr

/-- A pixel token (10_state R39): `WORD(v)` offered with `pix_end = 0`, or `END` offered with `pix_end = 1`. -/
inductive Token
  | word (v : Word)
  | last
  deriving DecidableEq, Repr, Inhabited

/-- One line of a host program (30_encoding R81), or the pseudo-instruction `FILL` (R82). -/
inductive AsmLine
  | init
  | orient (mode : Mode)
  | offset (dx dy : Word)
  | window (sx sy ex ey : Word)
  | pixel (x y color : Word)
  | wpix (ws : List Word)
  | wpixb (ws : List Word)
  | spix (sx sy ex ey : Word) (ws : List Word)
  | spixb (sx sy ex ey : Word) (ws : List Word)
  | fill (sx sy ex ey color : Word)
  deriving DecidableEq, Repr, Inhabited

end Sys2Proof
end

