-- ==== Sys2Proof/Config.lean ====
section
/-! DEFINITION. The implementation parameters (00_scope R5): the types of the construction straps and of every
parameter marked *argument*, the fixed sizes, and the free values the environment supplies (20_memory R55, R60). The
parameters' default VALUES stand in Decode.lean and Machine/Defaults.lean. -/

namespace Sys2Proof

/-- A driven level of an output line: `level` in {0, 1} (20_memory R51). -/
inductive Level
  | lo | hi
  deriving DecidableEq, Repr, Inhabited

/-- What a line register holds: a level, or UNKNOWN (10_state R31). -/
inductive LineLevel
  | known (l : Level)
  | unknown
  deriving DecidableEq, Repr, Inhabited

/-- The construction straps (00_scope R5; 10_state R21 to R23): read-only. -/
structure Straps where
  rgb      : Bool
  inverted : Bool
  width    : Word
  height   : Word
  deriving DecidableEq, Repr, Inhabited

/-- The parameter `OPC` (00_scope R5, 30_encoding R77): the opcode of each catalog name. -/
structure OpcTable where
  swreset : Byte
  slpout  : Byte
  frmctr1 : Byte
  frmctr2 : Byte
  frmctr3 : Byte
  invctr  : Byte
  pwctr1  : Byte
  pwctr2  : Byte
  pwctr3  : Byte
  pwctr4  : Byte
  pwctr5  : Byte
  vmctr1  : Byte
  invoff  : Byte
  invon   : Byte
  madctl  : Byte
  colmod  : Byte
  dispon  : Byte
  caset   : Byte
  raset   : Byte
  ramwr   : Byte
  deriving DecidableEq, Repr, Inhabited

/-- `OPC(name)` (30_encoding R77). -/
def OpcTable.opcode (t : OpcTable) : Command → Byte
  | .swreset => t.swreset | .slpout => t.slpout
  | .frmctr1 => t.frmctr1 | .frmctr2 => t.frmctr2 | .frmctr3 => t.frmctr3
  | .invctr => t.invctr
  | .pwctr1 => t.pwctr1 | .pwctr2 => t.pwctr2 | .pwctr3 => t.pwctr3 | .pwctr4 => t.pwctr4
  | .pwctr5 => t.pwctr5
  | .vmctr1 => t.vmctr1 | .invoff => t.invoff | .invon => t.invon | .madctl => t.madctl
  | .colmod => t.colmod | .dispon => t.dispon | .caset => t.caset | .raset => t.raset
  | .ramwr => t.ramwr

/-- The parameter `INIT_PARAMS` (00_scope R5, 42_bringup R132): the parameter bytes of the bring-up commands. -/
structure InitParams where
  frmctr1 : List Byte
  frmctr2 : List Byte
  frmctr3 : List Byte
  invctr  : List Byte
  pwctr1  : List Byte
  pwctr2  : List Byte
  pwctr3  : List Byte
  pwctr4  : List Byte
  pwctr5  : List Byte
  vmctr1  : List Byte
  colmod  : List Byte
  deriving DecidableEq, Repr, Inhabited

/-- All entries of `INIT_PARAMS`, in the order the bring-up sends them. -/
def InitParams.entries (p : InitParams) : List (List Byte) :=
  [p.frmctr1, p.frmctr2, p.frmctr3, p.invctr, p.pwctr1, p.pwctr2, p.pwctr3, p.pwctr4, p.pwctr5,
   p.vmctr1, p.colmod]

/-- The parameter `ORIENT_BASE` (00_scope R5, 43_orientation R151): the base byte of each mode. -/
structure OrientBase where
  portrait         : Byte
  landscape        : Byte
  portraitSwapped  : Byte
  landscapeSwapped : Byte
  deriving DecidableEq, Repr, Inhabited

/-- `ORIENT_BASE[mode]` (43_orientation R151). -/
def OrientBase.base (t : OrientBase) : Mode → Byte
  | .portrait => t.portrait
  | .landscape => t.landscape
  | .portraitSwapped => t.portraitSwapped
  | .landscapeSwapped => t.landscapeSwapped

/-- The parameters marked *argument* in 00_scope R5. No step writes them (20_memory R65). -/
structure Params where
  opc        : OpcTable
  initParams : InitParams
  orientBase : OrientBase
  /-- level of each line before the block first drives it (D10) -/
  dcInit     : LineLevel
  rstInit    : LineLevel
  /-- block clock, used only to realise delays in cycles (D17) -/
  clkHz      : Nat
  deriving DecidableEq, Repr, Inhabited

/-- `FIFO_BYTES = 32` (00_scope R5). -/
abbrev fifoBytes : Nat := 32

/-- `FIFO_WORDS = 16` (00_scope R5). -/
abbrev fifoWords : Nat := 16

/-- One answer of the environment (20_memory R55): OK, or FAIL. Where the failed event is a write, `delivered` is the
draw of how many of its bytes arrived (20_memory R60; log 5); a failed drive does not use it. -/
inductive Answer
  | ok
  | fail (delivered : Nat)
  deriving DecidableEq, Repr, Inhabited

/-- The environment's answers past the end of the listed ones: a free value, nothing constrains it
(20_memory R55, 93 U6, U8; log 4). The argument is the count of answers taken before. -/
opaque Config.envDraw : Nat → Answer

end Sys2Proof
end

