-- ==== Sys2Proof/WellFormed.lean ====
section
/-! DEFINITION. The checks the spec puts on terms. Every `Instr` is well formed, because its one operand field, the
orientation mode, has no reserved value (30_encoding R72: "All four values are legal, so this field has no reserved
value"). The checks below are those on the parameters (30_encoding R78, 42_bringup R132, 20_memory R59) and on the
pseudo-instruction `FILL` (30_encoding R82). -/

namespace Sys2Proof

/-- Every instruction term is well formed (30_encoding R72, R75: operands are unconstrained 16-bit values). -/
def Instr.wellFormed : Instr → Bool := fun _ => true

/-- The catalog values are pairwise distinct (30_encoding R78: "a model should check of any `OPC` it is given"). -/
abbrev OpcTable.Distinct (t : OpcTable) : Prop := (Command.all.map t.opcode).Nodup

/-- Every entry of `INIT_PARAMS` is a non-empty list (42_bringup R132, D15) that fits one transaction of at most 32
bytes (20_memory R59). -/
abbrev InitParams.Fits (p : InitParams) : Prop := ∀ l ∈ p.entries, 1 ≤ l.length ∧ l.length ≤ fifoBytes

/-- The checks on the parameters together. -/
structure Params.WellFormed (p : Params) : Prop where
  distinct : p.opc.Distinct
  fits     : p.initParams.Fits

/-- The same check as a Boolean. -/
def Params.wellFormed (p : Params) : Bool := decide p.opc.Distinct && decide p.initParams.Fits

/-- `FILL` needs `ex >= sx` and `ey >= sy` (30_encoding R82); the other lines put no condition on their operands
(41_address_window R123, 45_drawing R175). -/
def AsmLine.wellFormed : AsmLine → Bool
  | .fill sx sy ex ey _ => decide (sx ≤ ex) && decide (sy ≤ ey)
  | .init | .orient _ | .offset _ _ | .window _ _ _ _ | .pixel _ _ _ | .wpix _ | .wpixb _
  | .spix _ _ _ _ _ | .spixb _ _ _ _ _ => true

end Sys2Proof
end

