-- ==== Sys2Proof/Decode.lean ====
section
/-! DEFINITION. The decoder, total on all 2^16 command words (30_encoding R80) and on all bytes as catalog opcodes
(30_encoding R77), rejecting by name; after it the encoder, written from the same tables; the default opcode table. -/

namespace Sys2Proof

/-- Why an encoding is refused. -/
inductive DecodeError
  /-- `cmd[15:6] != 0` (30_encoding R73) -/
  | reservedBits
  /-- `cmd[5:4] != 0` with an OP other than 0x2 (30_encoding R73) -/
  | orientBits
  /-- OP = 0x0 or 0xA to 0xF (30_encoding R74) -/
  | reservedOp
  /-- a byte that is no catalog opcode (30_encoding R77) -/
  | unknownOpcode
  deriving DecidableEq, Repr

/-- What the decoder answers. -/
inductive Decoded
  | instr (i : Instr)
  | rejected (e : DecodeError)
  deriving DecidableEq, Repr

/-- The instruction, where there is one. -/
def Decoded.toOption : Decoded → Option Instr
  | .instr i => some i
  | .rejected _ => none

/-- An encoded instruction: a 16-bit command word for the command port (30_encoding R70), or an 8-bit controller opcode
(30_encoding R77). -/
inductive Encoding
  | command (w : Word)
  | opcode (b : Byte)
  deriving DecidableEq, Repr

/-- The ORIENT field's mode (30_encoding R72). -/
def Mode.ofBits (b : BitVec 2) : Mode :=
  match b.toNat with
  | 0 => .portrait
  | 1 => .landscape
  | 2 => .portraitSwapped
  | _ => .landscapeSwapped

/-- The mode's field value (30_encoding R72). -/
def Mode.bits : Mode → BitVec 2
  | .portrait => 0
  | .landscape => 1
  | .portraitSwapped => 2
  | .landscapeSwapped => 3

/-- `cmd[3:0]` (30_encoding R70). -/
def opField (w : Word) : BitVec 4 := w.extractLsb' 0 4

/-- `cmd[5:4]` (30_encoding R70). -/
def orientField (w : Word) : BitVec 2 := w.extractLsb' 4 2

/-- `cmd[15:6]` (30_encoding R70). -/
def rsvField (w : Word) : BitVec 10 := w.extractLsb' 6 10

/-- `Legal(cmd)` (30_encoding R80). -/
def legal (w : Word) : Bool :=
  rsvField w == 0 && (1 ≤ (opField w).toNat && (opField w).toNat ≤ 9)
    && (opField w == 2 || orientField w == 0)

/-- `OPNAME` (30_encoding R71). -/
def opName (op : BitVec 4) : Option Op :=
  match op.toNat with
  | 1 => some .init
  | 2 => some .orient
  | 3 => some .offset
  | 4 => some .window
  | 5 => some .pixel
  | 6 => some .wpix
  | 7 => some .wpixb
  | 8 => some .spix
  | 9 => some .spixb
  | _ => none

/-- Host decode (30_encoding R80, with R73 and R74's refusals by name). -/
def decodeCommand (w : Word) : Decoded :=
  if rsvField w ≠ 0 then .rejected .reservedBits
  else
    match opName (opField w) with
    | none => .rejected .reservedOp
    | some op =>
      if op ≠ .orient ∧ orientField w ≠ 0 then .rejected .orientBits
      else .instr (op.instr (Mode.ofBits (orientField w)))

/-- The catalog name whose opcode is `b` under the table `t`, in the catalog's order (30_encoding R77). -/
def decodeOpcode (t : OpcTable) (b : Byte) : Decoded :=
  match Command.all.find? (fun c => t.opcode c == b) with
  | some c => .instr c.instr
  | none => .rejected .unknownOpcode

/-- The decoder over both formats. -/
def decode (t : OpcTable) : Encoding → Decoded
  | .command w => decodeCommand w
  | .opcode b => decodeOpcode t b

/-- The command word of a host operation (30_encoding R71, R81: ORIENT is `0x0002 + 16 * mode`); 0, a reserved word,
where the operation is no host operation. -/
def Op.word : Op → Mode → Word
  | .init, _ => 0x0001
  | .orient, m => 0x0002 ||| (m.bits.setWidth 16 <<< 4)
  | .offset, _ => 0x0003
  | .window, _ => 0x0004
  | .pixel, _ => 0x0005
  | .wpix, _ => 0x0006
  | .wpixb, _ => 0x0007
  | .spix, _ => 0x0008
  | .spixb, _ => 0x0009
  | .frame _, _ => 0x0000

/-- The encoder, from the tables of 30_encoding R71, R72 and R77. -/
def encode (t : OpcTable) : Instr → Encoding
  | .init => .command 0x0001
  | .orient m => .command (0x0002 ||| (m.bits.setWidth 16 <<< 4))
  | .offset => .command 0x0003
  | .window => .command 0x0004
  | .pixel => .command 0x0005
  | .wpix => .command 0x0006
  | .wpixb => .command 0x0007
  | .spix => .command 0x0008
  | .spixb => .command 0x0009
  | .swreset => .opcode t.swreset
  | .slpout => .opcode t.slpout
  | .frmctr1 => .opcode t.frmctr1
  | .frmctr2 => .opcode t.frmctr2
  | .frmctr3 => .opcode t.frmctr3
  | .invctr => .opcode t.invctr
  | .pwctr1 => .opcode t.pwctr1
  | .pwctr2 => .opcode t.pwctr2
  | .pwctr3 => .opcode t.pwctr3
  | .pwctr4 => .opcode t.pwctr4
  | .pwctr5 => .opcode t.pwctr5
  | .vmctr1 => .opcode t.vmctr1
  | .invoff => .opcode t.invoff
  | .invon => .opcode t.invon
  | .madctl => .opcode t.madctl
  | .colmod => .opcode t.colmod
  | .dispon => .opcode t.dispon
  | .caset => .opcode t.caset
  | .raset => .opcode t.raset
  | .ramwr => .opcode t.ramwr

/-- The default of the parameter `OPC` (30_encoding R77's table; PRESUMED: the spec marks every value as general
knowledge, 93 G3; log 7). -/
def defaultOpc : OpcTable where
  swreset := 0x01
  slpout  := 0x11
  frmctr1 := 0xB1
  frmctr2 := 0xB2
  frmctr3 := 0xB3
  invctr  := 0xB4
  pwctr1  := 0xC0
  pwctr2  := 0xC1
  pwctr3  := 0xC2
  pwctr4  := 0xC3
  pwctr5  := 0xC4
  vmctr1  := 0xC5
  invoff  := 0x20
  invon   := 0x21
  madctl  := 0x36
  colmod  := 0x3A
  dispon  := 0x29
  caset   := 0x2A
  raset   := 0x2B
  ramwr   := 0x2C

/-- The encoding that `nbits` bits `w` of the opcode table stand for: the table's `CMD16` rows are 16-bit command words
and its `CTRL8` rows are 8-bit opcodes (log 21). -/
def tableEncoding (nbits w : Nat) : Option Encoding :=
  match nbits with
  | 16 => if w < 65536 then some (.command (BitVec.ofNat 16 w)) else none
  | 8 => if w < 256 then some (.opcode (BitVec.ofNat 8 w)) else none
  | _ => none

/-- The instruction the decoder reads from a word of the opcode table. -/
def decodeTableWord (nbits w : Nat) : Option Instr :=
  (tableEncoding nbits w).bind fun e => (decode defaultOpc e).toOption

end Sys2Proof
end

