-- ==== Sys2Proof/Machine/Defaults.lean ====
section
/-! DEFINITION. Default values of the parameters (00_scope R5) other than `OPC`, whose default stands in Decode.lean. -/

namespace Sys2Proof

/-- The default of `INIT_PARAMS` (42_bringup R132's table; PRESUMED: general knowledge by the spec's own mark, 93 G5;
log 7). -/
def defaultInitParams : InitParams where
  frmctr1 := [0x01, 0x2C, 0x2D]
  frmctr2 := [0x01, 0x2C, 0x2D]
  frmctr3 := [0x01, 0x2C, 0x2D, 0x01, 0x2C, 0x2D]
  invctr  := [0x07]
  pwctr1  := [0xA2, 0x02, 0x84]
  pwctr2  := [0xC5]
  pwctr3  := [0x0A, 0x00]
  pwctr4  := [0x8A, 0x2A]
  pwctr5  := [0x8A, 0xEE]
  vmctr1  := [0x0E]
  colmod  := [0x05]

/-- The default of `ORIENT_BASE` (43_orientation R151's table; PRESUMED: general knowledge by the spec's own mark,
93 G7; log 7). -/
def defaultOrientBase : OrientBase where
  portrait         := 0x00
  landscape        := 0x60
  portraitSwapped  := 0xC0
  landscapeSwapped := 0xA0

/-- The default parameters: the tables above, both lines UNKNOWN (D10), and a clock of 1000 Hz (DESIGN CHOICE: the spec
names no value and no rule the model states reads it; log 8). -/
def defaultParams : Params where
  opc        := defaultOpc
  initParams := defaultInitParams
  orientBase := defaultOrientBase
  dcInit     := .unknown
  rstInit    := .unknown
  clkHz      := 1000

/-- The straps `State.reset` takes (DESIGN CHOICE: a strap has no default in the spec; RGB and INVERTED as
95_test_vectors assumes, the dimensions of its V-RST-1; log 1). -/
def defaultStraps : Straps where
  rgb      := true
  inverted := false
  width    := 128
  height   := 160

/-- The least number of clock cycles that realises `Delay(ms)` (60_exceptions R210: a counter of at least
`ms * CLK_HZ / 1000` cycles). The model's step measures no time (D17); this is the bound a cycle-level realisation
keeps. -/
def minDelayCycles (clkHz ms : Nat) : Nat := (ms * clkHz + 999) / 1000

end Sys2Proof
end

