-- ==== Sys2Proof/Machine/State.lean ====
section
/-! DEFINITION. The state of the block as plain data: every field of 10_state R20's record, the parameters of 00_scope
R5, the ports of 10_state R36 and the environment's answers of 20_memory R55; the reasons a step can stop; the state
after block reset (70_reset R230). -/

namespace Sys2Proof.Machine

/-- The two output lines the block drives (20_memory R51). -/
inductive Line
  | dc | rst
  deriving DecidableEq, Repr

/-- How the environment answered an event: `r` in {OK, FAIL} (20_memory R51). -/
inductive Result
  | ok | fail
  deriving DecidableEq, Repr

/-- A bus event (20_memory R51). -/
inductive Event
  /-- `PIN(line, level, r)` -/
  | pin (line : Line) (level : Level) (r : Result)
  /-- `WR(bytes, r)` -/
  | wr (bytes : List Byte) (r : Result)
  /-- `DLY(ms)` -/
  | dly (ms : Byte)
  deriving DecidableEq, Repr

/-- A primitive action that the pseudocode of a rule names outright (00_scope R9); `NextToken` is the sequencer's own
(Machine/Ops.lean), because what follows it depends on the token. -/
inductive Action
  /-- `Drive(line, level)`, 20_memory R52 -/
  | drive (line : Line) (level : Level)
  /-- `Xfer(bytes)`, 20_memory R53 -/
  | xfer (bytes : List Byte)
  /-- `Delay(ms)`, 20_memory R54 -/
  | delay (ms : Byte)
  deriving DecidableEq, Repr

/-- One byte delivered on the bus and the D/C level in force for it (20_memory R50(b), R57; log 5). -/
structure BusByte where
  dc   : LineLevel
  byte : Byte
  deriving DecidableEq, Repr

/-- Four 16-bit operands: `ARG[0..3]` (10_state R25) and `OPL.A[0..3]` (R26). -/
structure Operands where
  a0 : Word
  a1 : Word
  a2 : Word
  a3 : Word
  deriving DecidableEq, Repr

/-- `OPL`, the operand latch (10_state R26). -/
structure Latch where
  cmd : Word
  a   : Operands
  dx  : Word
  dy  : Word
  deriving DecidableEq, Repr

/-- `FSM` (10_state R28). -/
inductive Fsm
  | idle
  | run (op : Op)
  | drain
  deriving DecidableEq, Repr

/-- Where the running operation stands (DEDUCED from 45_drawing R171, R172 and 40_framer R103; log 11): in its
straight-line actions, at `NextToken()`, holding a word to send at once, or about to flush the pixel FIFO (`last` after
`END`). -/
inductive Pos
  | script
  | token
  | write (w : Word)
  | flush (last : Bool)
  deriving DecidableEq, Repr

/-- The pixel FIFO buffer `BUF` (10_state R30): (index, byte) pairs. Canonical form: indices strictly rising and below
32. An unlisted index has not been written and has no value (log 3). -/
abbrev Memory := List Host.Cell

/-- The canonical form of `BUF`. -/
abbrev Memory.wf (m : Memory) : Prop :=
  (m.map Prod.fst).Pairwise (· < ·) ∧ ∀ c ∈ m, c.1 < fifoBytes

/-- A move of the host (10_state R36; 30_encoding R81; 70_reset R230), or a turn it leaves to the block (log 18). -/
inductive HostAction
  /-- writes a register of the map (20_memory R61) -/
  | regWrite (addr : RegAddr) (v : Word)
  /-- reads a register of the map (20_memory R61) -/
  | regRead (addr : RegAddr)
  /-- offers a command word; waits while an earlier one is still on the port (10_state R37) -/
  | offerCommand (w : Word)
  /-- waits until the offered command has been accepted (30_encoding R81 step 2) -/
  | awaitAccept
  /-- offers a pixel token (10_state R39) -/
  | offerToken (t : Token)
  /-- waits until `STATUS.BUSY = 0` (30_encoding R81 step 4) -/
  | awaitIdle
  /-- asserts the block's reset input (70_reset R230, R231) -/
  | blockReset
  /-- does nothing for one step of the block -/
  | pause
  deriving DecidableEq, Repr

/-- The state. -/
structure State where
  -- the record of 10_state R20
  /-- `CFG` (R21 to R23) -/
  cfg  : Straps
  /-- `DX`, `DY` (R24) -/
  dx   : Word
  dy   : Word
  /-- `ARG[0..3]` (R25) -/
  arg  : Operands
  /-- `OPL` (R26) -/
  opl  : Latch
  /-- `STATUS.ERR`, `STATUS.ILL` (R27); `STATUS.BUSY` is a view of `fsm` (Flags.lean) -/
  err  : Bool
  ill  : Bool
  /-- `FSM` (R28) -/
  fsm  : Fsm
  /-- `PC` (R29) -/
  pc   : Nat
  /-- `BUF` and `IDX` (R30) -/
  buf  : Memory
  idx  : Nat
  /-- `DC_Q`, `RST_Q` (R31) -/
  dcQ  : LineLevel
  rstQ : LineLevel
  /-- `TR`, ghost (R34) -/
  tr   : List Event
  -- the parameters of 00_scope R5
  par  : Params
  -- the model's own
  /-- where the running operation stands (log 11) -/
  pos  : Pos
  /-- ghost: the bytes delivered on the bus (20_memory R50(b), R60; log 5) -/
  bus  : List BusByte
  /-- the command port (10_state R36): the word offered, if any -/
  cmdPort : Option Word
  /-- the pixel token port (10_state R36, R39): the tokens offered and not yet taken (log 16) -/
  pix  : List Token
  /-- the reply of the last register read (20_memory R61; log 18) -/
  rdata : Option Word
  /-- a controller opcode whose frame is to be run by itself; no host action fills it (log 9) -/
  framePort : Option Byte
  /-- the host's schedule of moves (log 18) -/
  host : List HostAction
  /-- the environment's next answers (20_memory R55; log 4) -/
  env  : List Answer
  /-- answers taken so far; past the end of `env` it indexes the free value (log 4) -/
  draws : Nat
  deriving DecidableEq, Repr

/-- Why the machine stops. Both reasons are about `BUF`, and neither arises in a state that meets the invariant of
Safety.lean. -/
inductive Fault
  /-- An index of `BUF` outside 0 to 31, which does not exist (20_memory R58(a)). Raised by the append of the pixel FIFO
  (`fifoToken`). Safe: the machine stops where the block has no such byte. -/
  | bufOutOfRange (index : Nat)
  /-- A flush that would send a byte of `BUF` nothing has written (10_state R30: "never read before it is written").
  Raised by `flushStep`. Safe: the spec gives such a byte no value. -/
  | bufUnwritten
  deriving DecidableEq, Repr

/-- Why an instruction is refused. -/
inductive Refusal
  /-- An instruction without a meaning; no arm of `exec` answers it. Safe. -/
  | notModelled (mnemonic : String)
  /-- A byte in the frame slot that no catalog entry holds (30_encoding R77: "The block emits no opcode outside this
  table"). Raised by `step` alone. Safe: the model stops. -/
  | unknownOpcode (b : Byte)
  deriving DecidableEq, Repr

/-- All four operands at one value. -/
def Operands.all (v : Word) : Operands := ⟨v, v, v, v⟩

/-- Block reset for an instance with straps `cfg` and parameters `par` (70_reset R230): every field at the value the
table states; `OPL`, which the table leaves unspecified, at 0 (log 2); `BUF` with nothing written (log 3); ports
empty. -/
def State.resetWith (cfg : Straps) (par : Params) : State where
  cfg := cfg
  dx := 0
  dy := 0
  arg := Operands.all 0
  opl := ⟨0, Operands.all 0, 0, 0⟩
  err := false
  ill := false
  fsm := .idle
  pc := 0
  buf := []
  idx := 0
  dcQ := par.dcInit
  rstQ := par.rstInit
  tr := []
  par := par
  pos := .script
  bus := []
  cmdPort := none
  pix := []
  rdata := none
  framePort := none
  host := []
  env := []
  draws := 0

/-- The machine right after reset, with the default straps (log 1) and the default parameters (log 7, log 8). -/
def State.reset : State := State.resetWith defaultStraps defaultParams

end Sys2Proof.Machine
end

