-- ==== Sys2Proof/Machine/Flags.lean ====
section
/-! DEFINITION. `STATUS` (10_state R27) and the two ways an operation is turned away or ends early: the flags each
writes (60_exceptions R202, R203). -/

namespace Sys2Proof.Machine

/-- `STATUS.BUSY`: 1 while `FSM` is not `IDLE` (10_state R27). -/
def State.busy (s : State) : Bool :=
  match s.fsm with
  | .idle => false
  | .run _ => true
  | .drain => true

/-- The `STATUS` register as the host reads it: BUSY in bit 0, ERR in bit 1, ILL in bit 2, the rest 0 (10_state R27,
20_memory R61). -/
def State.statusWord (s : State) : Word :=
  (if s.busy then 1 else 0) ||| (if s.err then 2 else 0) ||| (if s.ill then 4 else 0)

/-- The `CFG` register as the host reads it: RGB in bit 0, INVERTED in bit 1, the rest 0 (20_memory R61). -/
def State.cfgWord (s : State) : Word :=
  (if s.cfg.rgb then 1 else 0) ||| (if s.cfg.inverted then 2 else 0)

/-- `STATUS.ERR <- 0; STATUS.ILL <- 0`, at every command acceptance (10_state R38). -/
def State.clearStatus (s : State) : State := { s with err := false, ill := false }

/-- `STATUS.ERR <- 1` (60_exceptions R202). -/
def State.setErr (s : State) : State := { s with err := true }

/-- `STATUS.ILL <- 1` (60_exceptions R203). -/
def State.setIll (s : State) : State := { s with ill := true }

end Sys2Proof.Machine
end

