-- ==== Sys2Proof/Machine/Operands.lean ====
section
/-! DEFINITION. Operand assembly (30_encoding R75): what an operation reads of the operand latch, the offset adder
(41_address_window R122), the mode of ORIENT (30_encoding R72), big-endian serialisation (20_memory R56), and the two
MADCTL bytes (42_bringup R134, 43_orientation R150). -/

namespace Sys2Proof.Machine

/-- The two bytes of a word, most significant first (20_memory R56). -/
def wordBytes (w : Word) : List Byte := [w.extractLsb' 8 8, w.extractLsb' 0 8]

/-- `mode = OPL.CMD[5:4]` (43_orientation R150, 30_encoding R75). -/
def State.latchedMode (s : State) : Mode := Mode.ofBits (orientField s.opl.cmd)

/-- `cs <- sx +_16 OPL.DX` and the like: the column adder (41_address_window R120, R122), carry discarded. -/
def State.column (s : State) (x : Word) : Word := x + s.opl.dx

/-- `rs <- sy +_16 OPL.DY` and the like: the row adder (41_address_window R120, R122), carry discarded. -/
def State.row (s : State) (y : Word) : Word := y + s.opl.dy

/-- The colour-order byte INIT sends: 0x00 if `CFG.RGB`, else 0x08 (42_bringup R134). -/
def colourOrder (cfg : Straps) : Byte := if cfg.rgb then 0x00 else 0x08

/-- The MADCTL byte of ORIENT: the mode's base byte, OR 0x08 if not `CFG.RGB` (43_orientation R150). -/
def orientByte (par : Params) (cfg : Straps) (m : Mode) : Byte :=
  if cfg.rgb then par.orientBase.base m else par.orientBase.base m ||| 0x08

end Sys2Proof.Machine
end

