-- ==== Sys2Proof/Machine/Ops.lean ====
section
/-! DEFINITION. The shared operations: the pixel FIFO buffer (00_scope R9), the environment's answers (20_memory R55),
the primitive actions (20_memory R52 to R54), acceptance (10_state R38), the two error entries (60_exceptions R202,
R203) and the way out of them, and the sequencer that performs one action a step (10_state R28, R29, R38, R39). -/

namespace Sys2Proof.Machine

/-- What one step answers. -/
abbrev StepResult := Host.Outcome State Fault Refusal

/-! ### The pixel FIFO buffer -/

/-- The byte at an index, if something has written it. -/
def Memory.get : Memory → Nat → Option Byte
  | [], _ => none
  | (b, v) :: m, a => if a = b then some v else Memory.get m a

/-- The list with one byte set, in canonical form. -/
def Memory.put : Memory → Nat → Byte → Memory
  | [], a, v => [(a, v)]
  | (b, u) :: m, a, v =>
    if a < b then (a, v) :: (b, u) :: m
    else if a = b then (a, v) :: m
    else (b, u) :: Memory.put m a v

/-- `MemWrite(IDX, 1, w[15:8]); MemWrite(IDX + 1, 1, w[7:0])` (40_framer R103): none where an index is not one of the
buffer's 32 (20_memory R58(a)). -/
def Memory.putWord (m : Memory) (a : Nat) (w : Word) : Option Memory :=
  if a + 1 < fifoBytes then some ((m.put a (w.extractLsb' 8 8)).put (a + 1) (w.extractLsb' 0 8)) else none

/-- `MemRead(a, n)` (00_scope R9): none where a byte has not been written. -/
def Memory.read (m : Memory) (a : Nat) : Nat → Option (List Byte)
  | 0 => some []
  | n + 1 =>
    match m.get a, Memory.read m (a + 1) n with
    | some v, some vs => some (v :: vs)
    | _, _ => none

/-! ### The environment and the lines -/

/-- The environment's answer to the next event: the first listed one, else the free value (20_memory R55; log 4). -/
def State.nextAnswer (s : State) : Answer :=
  match s.env with
  | a :: _ => a
  | [] => Config.envDraw s.draws

/-- The state once that answer is taken. -/
def State.takeAnswer (s : State) : State := { s with env := s.env.tail, draws := s.draws + 1 }

/-- `TR <- TR ++ [e]` (20_memory R52 to R54). -/
def State.emit (s : State) (e : Event) : State := { s with tr := s.tr ++ [e] }

/-- `line_Q <- level` (20_memory R52). -/
def State.setLine (s : State) (l : Line) (v : LineLevel) : State :=
  match l with
  | .dc => { s with dcQ := v }
  | .rst => { s with rstQ := v }

/-- Bytes arrive on the bus while D/C is at its present level (20_memory R57, R60; log 5). -/
def State.deliver (s : State) (bs : List Byte) : State :=
  { s with bus := s.bus ++ bs.map (BusByte.mk s.dcQ) }

/-- `PC` counts one completed action (10_state R29). -/
def State.countAction (s : State) : State := { s with pc := s.pc + 1 }

/-- One primitive action: the state after it, and whether it completed (`false`: `raise BusError`). `Drive` 20_memory
R52, `Xfer` R53 and R60 (a zero-length one does nothing and cannot fail, D11), `Delay` R54. -/
def perform (a : Action) (s : State) : State × Bool :=
  match a with
  | .drive l v =>
    match s.nextAnswer with
    | .ok => ((s.takeAnswer.emit (.pin l v .ok)).setLine l (.known v), true)
    | .fail _ => ((s.takeAnswer.emit (.pin l v .fail)).setLine l .unknown, false)
  | .xfer [] => (s, true)
  | .xfer (b :: bs) =>
    match s.nextAnswer with
    | .ok => ((s.takeAnswer.emit (.wr (b :: bs) .ok)).deliver (b :: bs), true)
    | .fail k => ((s.takeAnswer.emit (.wr (b :: bs) .fail)).deliver ((b :: bs).take k), false)
  | .delay ms => (s.emit (.dly ms), true)

/-! ### Acceptance, errors, ends -/

/-- `OPL.A[i] <- ARG[i]; OPL.DX <- DX; OPL.DY <- DY` (10_state R38). -/
def State.latchOperands (s : State) : State :=
  { s with opl := { s.opl with a := s.arg, dx := s.dx, dy := s.dy } }

/-- Acceptance of a legal command word (10_state R38), which leaves the command port. -/
def accept (w : Word) (op : Op) (s : State) : State :=
  let t := s.clearStatus.latchOperands
  { t with opl := { t.opl with cmd := w }, pc := 0, pos := .script, fsm := .run op, cmdPort := none }

/-- The start of a controller command frame run by itself (log 9, log 10): as R38's acceptance, but `OPL.CMD` keeps
its value, because no command word was accepted, and the frame slot is emptied. -/
def startFrame (c : Command) (s : State) : State :=
  { s.clearStatus.latchOperands with pc := 0, pos := .script, fsm := .run (.frame c), framePort := none }

/-- `raise IllegalCommand` at acceptance (10_state R38, 60_exceptions R203): the flags, and the word leaves the port;
nothing else changes (log 25). -/
def illegalCommand (s : State) : State := { s.clearStatus.setIll with cmdPort := none }

/-- `raise BusError` (60_exceptions R202): `ERR`, then `DRAIN` where a stream's `END` is still to be taken, else
`IDLE`. -/
def busError (streamOpen : Bool) (s : State) : State :=
  { s.setErr with fsm := if streamOpen then .drain else .idle, pos := .script }

/-- The pseudocode ends: `FSM <- IDLE` (10_state R38; in the step of the last action, 00_scope R9, log 14). -/
def finish (s : State) : State := { s with fsm := .idle, pos := .script }

/-- One step of `DRAIN` (60_exceptions R202): a token is discarded, and `END` returns the block to `IDLE`. No event, no
draw; `PC` keeps naming the point of failure (R206; log 12). -/
def drainToken (s : State) : State :=
  match s.pix with
  | [] => s
  | .word _ :: rest => { s with pix := rest }
  | .last :: rest => { s with pix := rest, fsm := .idle, pos := .script }

/-! ### The sequencer -/

/-- What follows an operation's straight-line actions: its end, the unbuffered token loop (45_drawing R171), or the
pixel FIFO (40_framer R103). -/
inductive Tail
  | ends | words | fifo
  deriving DecidableEq, Repr

/-- The straight-line actions are done. The FIFO's `IDX <- 0` (40_framer R103) happens here. -/
def endScript (tail : Tail) (s : State) : State :=
  match tail with
  | .ends => finish s
  | .words => { s with pos := .token }
  | .fifo => { s with pos := .token, idx := 0 }

/-- The action `PC` names is performed; a failure aborts (60_exceptions R202), and the last action ends the script. -/
def scriptStep (script : List Action) (tail : Tail) (s : State) : State :=
  match script[s.pc]? with
  | none => endScript tail s
  | some a =>
    match perform a s with
    | (t, true) => if t.pc + 1 < script.length then t.countAction else endScript tail t.countAction
    | (t, false) => busError (tail ≠ .ends) t

/-- `NextToken()` of the unbuffered loop (45_drawing R171, 10_state R39): without a token the block waits (log 17). -/
def wordsToken (s : State) : State :=
  match s.pix with
  | [] => s
  | .word w :: rest => { s.countAction with pix := rest, pos := .write w }
  | .last :: rest => finish { s.countAction with pix := rest }

/-- `WriteWord(t.v)` of the unbuffered loop (45_drawing R171, 40_framer R102). -/
def writeStep (w : Word) (s : State) : State :=
  match perform (.xfer (wordBytes w)) s with
  | (t, true) => { t.countAction with pos := .token }
  | (t, false) => busError true t

/-- `NextToken()` of the pixel FIFO and the append that follows it (40_framer R103). After `END`, an empty buffer makes
the final flush send nothing (D11), so the operation ends at once (log 13). -/
def fifoToken (s : State) : StepResult :=
  match s.pix with
  | [] => .next s
  | .word w :: rest =>
    match s.buf.putWord s.idx w with
    | none => .fault (.bufOutOfRange (s.idx + 1))
    | some m =>
      .next { s.countAction with
        pix := rest, buf := m, idx := s.idx + 2,
        pos := if s.idx + 2 = fifoBytes then .flush false else .token }
  | .last :: rest =>
    if s.idx = 0 then .next (finish { s.countAction with pix := rest })
    else .next { s.countAction with pix := rest, pos := .flush true }

/-- `Xfer(MemRead(0, IDX))`: a full flush, which sets `IDX <- 0` and goes back to `NextToken()`, or the final flush,
which ends the operation and leaves `IDX` (40_framer R103; 95_test_vectors P2). A failed full flush drains. -/
def flushStep (last : Bool) (s : State) : StepResult :=
  match s.buf.read 0 s.idx with
  | none => .fault .bufUnwritten
  | some bs =>
    match perform (.xfer bs) s with
    | (t, true) =>
      if last then .next (finish t.countAction)
      else .next { t.countAction with idx := 0, pos := .token }
    | (t, false) => .next (busError (!last) t)

/-- One step of an operation that is running. -/
def runStep (script : List Action) (tail : Tail) (s : State) : StepResult :=
  match s.pos with
  | .script => .next (scriptStep script tail s)
  | .token =>
    match tail with
    | .fifo => fifoToken s
    | .words => .next (wordsToken s)
    | .ends => .next (finish s)
  | .write w => .next (writeStep w s)
  | .flush last => flushStep last s

/-- One step of an instruction (10_state R28, R38): its start where the block is idle, its next action where an
operation runs, the next discarded token where it drains. -/
def operate (start : State → State) (script : List Action) (tail : Tail) (s : State) : StepResult :=
  match s.fsm with
  | .idle => .next (start s)
  | .run _ => runStep script tail s
  | .drain => .next (drainToken s)

/-! ### The framer's scripts -/

/-- `WriteCommand(name, params)`, the Command/Data Framer (40_framer R100). -/
def writeCommand (opc : OpcTable) (c : Command) (params : List Byte) : List Action :=
  match params with
  | [] => [.drive .dc .lo, .xfer [opc.opcode c]]
  | p :: ps => [.drive .dc .lo, .xfer [opc.opcode c], .drive .dc .hi, .xfer (p :: ps)]

/-- `StartData()`, the data-phase entry (40_framer R101, D13). -/
def startData : List Action := [.drive .dc .hi]

/-- `WriteWord(w)`, the Word Writer (40_framer R102). -/
def writeWord (w : Word) : List Action := [.xfer (wordBytes w)]

end Sys2Proof.Machine
end

