-- ==== Sys2Proof/Machine/Bringup.lean ====
section
/-! DEFINITION. The Bring-Up Sequencer (42_bringup): INIT, and the controller opcodes whose frames it sends. -/

namespace Sys2Proof.Machine

/-! ### The frames of the script -/

/-- The SWRESET frame of the bring-up script (42_bringup R130 step 2: no parameters, then `Delay(200)`). -/
def swresetScript (s : State) : List Action :=
  writeCommand s.par.opc .swreset [] ++ [.delay 200]

/-- The SLPOUT frame of the bring-up script (42_bringup R130 step 3: no parameters, then `Delay(200)`). -/
def slpoutScript (s : State) : List Action :=
  writeCommand s.par.opc .slpout [] ++ [.delay 200]

/-- The FRMCTR1 frame of the bring-up script (42_bringup R130 step 4). -/
def frmctr1Script (s : State) : List Action :=
  writeCommand s.par.opc .frmctr1 s.par.initParams.frmctr1

/-- The FRMCTR2 frame of the bring-up script (42_bringup R130 step 4). -/
def frmctr2Script (s : State) : List Action :=
  writeCommand s.par.opc .frmctr2 s.par.initParams.frmctr2

/-- The FRMCTR3 frame of the bring-up script (42_bringup R130 step 4). -/
def frmctr3Script (s : State) : List Action :=
  writeCommand s.par.opc .frmctr3 s.par.initParams.frmctr3

/-- The INVCTR frame of the bring-up script (42_bringup R130 step 5). -/
def invctrScript (s : State) : List Action :=
  writeCommand s.par.opc .invctr s.par.initParams.invctr

/-- The PWCTR1 frame of the bring-up script (42_bringup R130 step 6). -/
def pwctr1Script (s : State) : List Action :=
  writeCommand s.par.opc .pwctr1 s.par.initParams.pwctr1

/-- The PWCTR2 frame of the bring-up script (42_bringup R130 step 6). -/
def pwctr2Script (s : State) : List Action :=
  writeCommand s.par.opc .pwctr2 s.par.initParams.pwctr2

/-- The PWCTR3 frame of the bring-up script (42_bringup R130 step 6). -/
def pwctr3Script (s : State) : List Action :=
  writeCommand s.par.opc .pwctr3 s.par.initParams.pwctr3

/-- The PWCTR4 frame of the bring-up script (42_bringup R130 step 6). -/
def pwctr4Script (s : State) : List Action :=
  writeCommand s.par.opc .pwctr4 s.par.initParams.pwctr4

/-- The PWCTR5 frame of the bring-up script (42_bringup R130 step 6). -/
def pwctr5Script (s : State) : List Action :=
  writeCommand s.par.opc .pwctr5 s.par.initParams.pwctr5

/-- The VMCTR1 frame of the bring-up script (42_bringup R130 step 7). -/
def vmctr1Script (s : State) : List Action :=
  writeCommand s.par.opc .vmctr1 s.par.initParams.vmctr1

/-- The INVOFF frame of the bring-up script (42_bringup R130 step 8, rule R133: no parameters). -/
def invoffScript (s : State) : List Action :=
  writeCommand s.par.opc .invoff []

/-- The INVON frame of the bring-up script (42_bringup R130 step 8, rule R133: no parameters). -/
def invonScript (s : State) : List Action :=
  writeCommand s.par.opc .invon []

/-- The MADCTL frame of the bring-up script (42_bringup R130 step 9, rule R134: the colour-order byte). -/
def madctlScript (s : State) : List Action :=
  writeCommand s.par.opc .madctl [colourOrder s.cfg]

/-- The COLMOD frame of the bring-up script (42_bringup R130 step 10, rule R135). -/
def colmodScript (s : State) : List Action :=
  writeCommand s.par.opc .colmod s.par.initParams.colmod

/-- The DISPON frame of the bring-up script (42_bringup R130 step 11: no parameters, then `Delay(200)`). -/
def disponScript (s : State) : List Action :=
  writeCommand s.par.opc .dispon [] ++ [.delay 200]

/-- Step 1, the hard reset (42_bringup R131): no delay follows the last drive. -/
def hardReset : List Action :=
  [.drive .rst .hi, .delay 10, .drive .rst .lo, .delay 10, .drive .rst .hi]

/-- Step 8 (42_bringup R133): exactly one of INVON and INVOFF. -/
def inversionScript (s : State) : List Action :=
  if s.cfg.inverted then invonScript s else invoffScript s

/-- The bring-up script (42_bringup R130, R137), strictly in order. -/
def initScript (s : State) : List Action :=
  hardReset ++ swresetScript s ++ slpoutScript s
    ++ frmctr1Script s ++ frmctr2Script s ++ frmctr3Script s
    ++ invctrScript s
    ++ pwctr1Script s ++ pwctr2Script s ++ pwctr3Script s ++ pwctr4Script s ++ pwctr5Script s
    ++ vmctr1Script s ++ inversionScript s ++ madctlScript s ++ colmodScript s ++ disponScript s

/-! ### The meanings -/

/-- INIT (42_bringup R130): `cmd = 0x0001`. -/
def execInit (s : State) : StepResult := operate (accept 0x0001 .init) (initScript s) .ends s

/-- SWRESET: its command frame (40_framer R100; 42_bringup R130; log 9). -/
def execSwreset (s : State) : StepResult := operate (startFrame .swreset) (swresetScript s) .ends s

/-- SLPOUT: its command frame (40_framer R100; 42_bringup R130; log 9). -/
def execSlpout (s : State) : StepResult := operate (startFrame .slpout) (slpoutScript s) .ends s

/-- FRMCTR1: its command frame (40_framer R100; 42_bringup R130; log 9). -/
def execFrmctr1 (s : State) : StepResult := operate (startFrame .frmctr1) (frmctr1Script s) .ends s

/-- FRMCTR2: its command frame (40_framer R100; 42_bringup R130; log 9). -/
def execFrmctr2 (s : State) : StepResult := operate (startFrame .frmctr2) (frmctr2Script s) .ends s

/-- FRMCTR3: its command frame (40_framer R100; 42_bringup R130; log 9). -/
def execFrmctr3 (s : State) : StepResult := operate (startFrame .frmctr3) (frmctr3Script s) .ends s

/-- INVCTR: its command frame (40_framer R100; 42_bringup R130; log 9). -/
def execInvctr (s : State) : StepResult := operate (startFrame .invctr) (invctrScript s) .ends s

/-- PWCTR1: its command frame (40_framer R100; 42_bringup R130; log 9). -/
def execPwctr1 (s : State) : StepResult := operate (startFrame .pwctr1) (pwctr1Script s) .ends s

/-- PWCTR2: its command frame (40_framer R100; 42_bringup R130; log 9). -/
def execPwctr2 (s : State) : StepResult := operate (startFrame .pwctr2) (pwctr2Script s) .ends s

/-- PWCTR3: its command frame (40_framer R100; 42_bringup R130; log 9). -/
def execPwctr3 (s : State) : StepResult := operate (startFrame .pwctr3) (pwctr3Script s) .ends s

/-- PWCTR4: its command frame (40_framer R100; 42_bringup R130; log 9). -/
def execPwctr4 (s : State) : StepResult := operate (startFrame .pwctr4) (pwctr4Script s) .ends s

/-- PWCTR5: its command frame (40_framer R100; 42_bringup R130; log 9). -/
def execPwctr5 (s : State) : StepResult := operate (startFrame .pwctr5) (pwctr5Script s) .ends s

/-- VMCTR1: its command frame (40_framer R100; 42_bringup R130; log 9). -/
def execVmctr1 (s : State) : StepResult := operate (startFrame .vmctr1) (vmctr1Script s) .ends s

/-- INVOFF: its command frame (40_framer R100; 42_bringup R130; log 9). -/
def execInvoff (s : State) : StepResult := operate (startFrame .invoff) (invoffScript s) .ends s

/-- INVON: its command frame (40_framer R100; 42_bringup R130; log 9). -/
def execInvon (s : State) : StepResult := operate (startFrame .invon) (invonScript s) .ends s

/-- MADCTL: its command frame (40_framer R100; 42_bringup R130; log 9). -/
def execMadctl (s : State) : StepResult := operate (startFrame .madctl) (madctlScript s) .ends s

/-- COLMOD: its command frame (40_framer R100; 42_bringup R130; log 9). -/
def execColmod (s : State) : StepResult := operate (startFrame .colmod) (colmodScript s) .ends s

/-- DISPON: its command frame (40_framer R100; 42_bringup R130; log 9). -/
def execDispon (s : State) : StepResult := operate (startFrame .dispon) (disponScript s) .ends s

end Sys2Proof.Machine
end

