-- ==== Sys2Proof/Machine/Window.lean ====
section
/-! DEFINITION. The Address Window Setter (41_address_window): WINDOW, and the CASET and RASET frames it sends. -/

namespace Sys2Proof.Machine

/-- The column frame of `SetWindow` (41_address_window R120): CASET, `StartData`, the words `x0 +_16 OPL.DX` and
`x1 +_16 OPL.DX`. -/
def columnFrame (s : State) (x0 x1 : Word) : List Action :=
  writeCommand s.par.opc .caset [] ++ startData ++ writeWord (s.column x0) ++ writeWord (s.column x1)

/-- The row frame of `SetWindow` (41_address_window R120). -/
def rowFrame (s : State) (y0 y1 : Word) : List Action :=
  writeCommand s.par.opc .raset [] ++ startData ++ writeWord (s.row y0) ++ writeWord (s.row y1)

/-- `SetWindow(sx, sy, ex, ey)` (41_address_window R120). No bound or order is checked (R123). -/
def setWindow (s : State) (sx sy ex ey : Word) : List Action := columnFrame s sx ex ++ rowFrame s sy ey

/-- The window of the latched operands (30_encoding R75: sx, sy, ex, ey are `OPL.A[0..3]`). -/
def windowScript (s : State) : List Action := setWindow s s.opl.a.a0 s.opl.a.a1 s.opl.a.a2 s.opl.a.a3

/-- The CASET frame by itself: its columns are the latched sx and ex (log 27). -/
def casetScript (s : State) : List Action := columnFrame s s.opl.a.a0 s.opl.a.a2

/-- The RASET frame by itself: its rows are the latched sy and ey (log 27). -/
def rasetScript (s : State) : List Action := rowFrame s s.opl.a.a1 s.opl.a.a3

/-- SET_ADDRESS_WINDOW (41_address_window R121): `cmd = 0x0004`. -/
def execWindow (s : State) : StepResult := operate (accept 0x0004 .window) (windowScript s) .ends s

/-- CASET: its command frame (41_address_window R120; log 9). -/
def execCaset (s : State) : StepResult := operate (startFrame .caset) (casetScript s) .ends s

/-- RASET: its command frame (41_address_window R120; log 9). -/
def execRaset (s : State) : StepResult := operate (startFrame .raset) (rasetScript s) .ends s

end Sys2Proof.Machine
end

