-- ==== Sys2Proof/Machine/Drawing.lean ====
section
/-! DEFINITION. The drawing operations (45_drawing): PIXEL, WPIX, WPIXB, SPIX, SPIXB, and the RAMWR frame they send. -/

namespace Sys2Proof.Machine

/-- `WriteCommand(RAMWR, []); StartData()` (45_drawing R170 to R174, R177): the data phase is entered even for an empty
stream (D13). -/
def ramwrScript (s : State) : List Action := writeCommand s.par.opc .ramwr [] ++ startData

/-- SET_PIXEL's actions (45_drawing R170): the window `(x, y, x, y)`, RAMWR, one word. -/
def pixelScript (s : State) : List Action :=
  setWindow s s.opl.a.a0 s.opl.a.a1 s.opl.a.a0 s.opl.a.a1 ++ ramwrScript s ++ writeWord s.opl.a.a2

/-- The actions before the token loop of SET_PIXELS and SET_PIXELS_BUFFERED (45_drawing R173, R174). -/
def windowedScript (s : State) : List Action := windowScript s ++ ramwrScript s

/-- SET_PIXEL (45_drawing R170): `cmd = 0x0005`. -/
def execPixel (s : State) : StepResult := operate (accept 0x0005 .pixel) (pixelScript s) .ends s

/-- WRITE_PIXELS (45_drawing R171): `cmd = 0x0006`. -/
def execWpix (s : State) : StepResult := operate (accept 0x0006 .wpix) (ramwrScript s) .words s

/-- WRITE_PIXELS_BUFFERED (45_drawing R172): `cmd = 0x0007`. -/
def execWpixb (s : State) : StepResult := operate (accept 0x0007 .wpixb) (ramwrScript s) .fifo s

/-- SET_PIXELS (45_drawing R173): `cmd = 0x0008`. -/
def execSpix (s : State) : StepResult := operate (accept 0x0008 .spix) (windowedScript s) .words s

/-- SET_PIXELS_BUFFERED (45_drawing R174): `cmd = 0x0009`. -/
def execSpixb (s : State) : StepResult := operate (accept 0x0009 .spixb) (windowedScript s) .fifo s

/-- RAMWR: its command frame (45_drawing R177; log 9). -/
def execRamwr (s : State) : StepResult := operate (startFrame .ramwr) (ramwrScript s) .ends s

end Sys2Proof.Machine
end

