-- ==== Sys2Proof/Machine/Offset.lean ====
section
/-! DEFINITION. The Offset Setter (44_offset): OFFSET. -/

namespace Sys2Proof.Machine

/-- `DX <- OPL.A[0]; DY <- OPL.A[1]` (44_offset R160). -/
def writeOffset (s : State) : State := { s with dx := s.opl.a.a0, dy := s.opl.a.a1 }

/-- SET_OFFSET (44_offset R160): `cmd = 0x0003`. It has no primitive action, so the step after acceptance ends it; no
event and no draw. -/
def execOffset (s : State) : StepResult :=
  match s.fsm with
  | .idle => .next (accept 0x0003 .offset s)
  | .run _ => .next (finish (writeOffset s))
  | .drain => .next (drainToken s)

end Sys2Proof.Machine
end

