-- ==== Sys2Proof/Machine/Orientation.lean ====
section
/-! DEFINITION. The Orientation Setter (43_orientation): ORIENT. -/

namespace Sys2Proof.Machine

/-- The one frame of SET_ORIENTATION (43_orientation R150): MADCTL with the orientation byte. -/
def orientScript (m : Mode) (s : State) : List Action :=
  writeCommand s.par.opc .madctl [orientByte s.par s.cfg m]

/-- SET_ORIENTATION (43_orientation R150): `cmd = 0x0002 | (mode << 4)`. -/
def execOrient (m : Mode) (s : State) : StepResult :=
  operate (accept (Op.word .orient m) .orient) (orientScript m s) .ends s

end Sys2Proof.Machine
end

