-- ==== Sys2Proof/Machine/HostPort.lean ====
section
/-! DEFINITION. The host interface (10_state R36): the register port (20_memory R61), the command and token ports, the
block reset input (70_reset R230, R231), and whose turn a step is. -/

namespace Sys2Proof.Machine

/-- A register read (20_memory R61): 0xA to 0xF read 0. -/
def State.readReg (s : State) (addr : RegAddr) : Word :=
  match addr.toNat with
  | 0 => s.arg.a0
  | 1 => s.arg.a1
  | 2 => s.arg.a2
  | 3 => s.arg.a3
  | 4 => s.statusWord
  | 5 => s.dx
  | 6 => s.dy
  | 7 => s.cfgWord
  | 8 => s.cfg.width
  | 9 => s.cfg.height
  | _ => 0

/-- A register write (20_memory R61): only `ARG0` to `ARG3` are writable; any other write has no effect. -/
def State.writeReg (s : State) (addr : RegAddr) (v : Word) : State :=
  match addr.toNat with
  | 0 => { s with arg := { s.arg with a0 := v } }
  | 1 => { s with arg := { s.arg with a1 := v } }
  | 2 => { s with arg := { s.arg with a2 := v } }
  | 3 => { s with arg := { s.arg with a3 := v } }
  | _ => s

/-- Block reset of a running instance (70_reset R230, R231): the block's state as after power-on, its straps and
parameters kept; what the host holds on the ports and what the environment will answer lie outside the block and
stay (log 19). -/
def blockReset (s : State) : State :=
  { State.resetWith s.cfg s.par with
    cmdPort := s.cmdPort, pix := s.pix, rdata := s.rdata, host := s.host, env := s.env, draws := s.draws }

/-- Who moves in a step, and the state it moves from or to. -/
inductive Turn
  /-- the host moved, and this is the state after its move -/
  | host (s : State)
  /-- the block moves from this state -/
  | block (s : State)
  deriving DecidableEq, Repr

/-- The host's turn, if its schedule has a move it can make now; while it must wait, the block moves (10_state R36 to
R39, 30_encoding R81; log 18). -/
def hostTurn (s : State) : Turn :=
  match s.host with
  | [] => .block s
  | a :: rest =>
    let t := { s with host := rest }
    match a with
    | .regWrite addr v => .host (t.writeReg addr v)
    | .regRead addr => .host { t with rdata := some (t.readReg addr) }
    | .offerCommand w =>
      match s.cmdPort with
      | none => .host { t with cmdPort := some w }
      | some _ => .block s
    | .awaitAccept =>
      match s.cmdPort with
      | none => .host t
      | some _ => .block s
    | .offerToken k => .host { t with pix := s.pix ++ [k] }
    | .awaitIdle => if s.busy then .block s else .host t
    | .blockReset => .host (blockReset t)
    | .pause => .block t

/-- What the block does in its turn. -/
inductive Fetched
  /-- idle with nothing offered (70_reset R230: "it waits in `IDLE` for the first command") -/
  | wait
  /-- the running instruction, or the one accepted now -/
  | instr (i : Instr)
  /-- an illegal command word is on the port (10_state R38) -/
  | illegal
  /-- the frame slot holds a byte of no catalog entry (log 9) -/
  | unknownOpcode (b : Byte)
  /-- `FSM = DRAIN` -/
  | drain
  deriving DecidableEq, Repr

/-- Which instruction the block runs in its turn: while `RUN(op)`, that operation with the mode of the latched command
word; when idle, the one decoded from the frame slot or the command port (10_state R28, R36, R38). -/
def fetch (s : State) : Fetched :=
  match s.fsm with
  | .run op => .instr (op.instr s.latchedMode)
  | .drain => .drain
  | .idle =>
    match s.framePort with
    | some b =>
      match decodeOpcode s.par.opc b with
      | .instr i => .instr i
      | .rejected _ => .unknownOpcode b
    | none =>
      match s.cmdPort with
      | none => .wait
      | some w =>
        match decodeCommand w with
        | .instr i => .instr i
        | .rejected _ => .illegal

/-- The block idle, its frame slot holding an opcode or its command port a command word, and the host making no move:
what it takes for the next step to fetch that encoding (log 20). -/
def State.place (s : State) (nbits w : Nat) : State :=
  let t := { s with host := [], fsm := .idle, pos := .script }
  match nbits with
  | 8 => { t with framePort := some (BitVec.ofNat 8 w) }
  | _ => { t with framePort := none, cmdPort := some (BitVec.ofNat 16 w) }

end Sys2Proof.Machine
end

