-- ==== Sys2Proof/Machine/Step.lean ====
section
/-! DEFINITION. The step: the host's move, or the block's (10_state R38, D31: one primitive action a step). -/

namespace Sys2Proof.Machine

/-- The block's move: it waits, refuses an illegal command, drains, or runs one step of its instruction. -/
def blockStep (s : State) : Host.Outcome State Fault Refusal :=
  match fetch s with
  | .wait => .next s
  | .instr i => exec i s
  | .illegal => .next (illegalCommand s)
  | .unknownOpcode b => .refused (.unknownOpcode b)
  | .drain => .next (drainToken s)

/-- One step of the machine. -/
def step (s : State) : Host.Outcome State Fault Refusal :=
  match hostTurn s with
  | .host t => .next t
  | .block t => blockStep t

/-- The state in which the next step fetches and runs the instruction of an opcode-table word: a 16-bit word waits on
the command port of an idle block, an 8-bit opcode in its frame slot (log 20). -/
def State.withFetchWord (s : State) (nbits w : Nat) : State := s.place nbits w

end Sys2Proof.Machine
end

