-- ==== Sys2Proof/Machine/Assembly.lean ====
section
/-! DEFINITION. Host programs (30_encoding R81, R82): the port actions each assembly line expands to, and the reading of
a program's text. -/

namespace Sys2Proof.Machine

/-- Steps 2 to 4 of 30_encoding R81: offer `cmd` until it is accepted, offer the stream, wait for BUSY = 0, read
STATUS. -/
def issue (cmd : Word) (tokens : List Token) : List HostAction :=
  [.offerCommand cmd, .awaitAccept] ++ tokens.map .offerToken ++ [.awaitIdle, .regRead 4]

/-- A stream's tokens (10_state R39). -/
def stream (ws : List Word) : List Token := ws.map .word ++ [.last]

/-- Step 1 of 30_encoding R81 for the four operands. -/
def writeArgs4 (a b c d : Word) : List HostAction :=
  [.regWrite 0 a, .regWrite 1 b, .regWrite 2 c, .regWrite 3 d]

/-- `w*h` copies, for the inclusive window of a `FILL` (30_encoding R82). The rule has `ex >= sx` and `ey >= sy`; for
other corners, which `AsmLine.wellFormed` refuses, a difference is cut off at 0 (DESIGN CHOICE, log 28). -/
def fillCount (sx sy ex ey : Word) : Nat := (ex.toNat - sx.toNat + 1) * (ey.toNat - sy.toNat + 1)

end Sys2Proof.Machine

namespace Sys2Proof

open Machine

/-- `FILL` as the line it stands for (30_encoding R82); every other line is itself. -/
def AsmLine.core : AsmLine → AsmLine
  | .fill sx sy ex ey color => .spixb sx sy ex ey (List.replicate (fillCount sx sy ex ey) color)
  | l => l

/-- The host port actions of a line (30_encoding R81). -/
def AsmLine.expand : AsmLine → List HostAction
  | .init => issue 0x0001 []
  | .orient m => issue (Op.word .orient m) []
  | .offset dx dy => [.regWrite 0 dx, .regWrite 1 dy] ++ issue 0x0003 []
  | .window sx sy ex ey => writeArgs4 sx sy ex ey ++ issue 0x0004 []
  | .pixel x y color => [.regWrite 0 x, .regWrite 1 y, .regWrite 2 color] ++ issue 0x0005 []
  | .wpix ws => issue 0x0006 (stream ws)
  | .wpixb ws => issue 0x0007 (stream ws)
  | .spix sx sy ex ey ws => writeArgs4 sx sy ex ey ++ issue 0x0008 (stream ws)
  | .spixb sx sy ex ey ws => writeArgs4 sx sy ex ey ++ issue 0x0009 (stream ws)
  | .fill sx sy ex ey color =>
    writeArgs4 sx sy ex ey ++ issue 0x0009 (stream (List.replicate (fillCount sx sy ex ey) color))

/-- A host program's schedule: its lines in order. -/
def program (ls : List AsmLine) : List HostAction := ls.flatMap AsmLine.expand

/-! ### The text of a program (30_encoding R81; log 22) -/

/-- A lexeme of a line. -/
inductive Lexeme
  | word (cs : List Char)
  | comma
  | openBrace
  | closeBrace
  deriving DecidableEq, Repr

/-- The lexeme of the characters read so far, last first, if there are any. -/
def flushWord : List Char → List Lexeme
  | [] => []
  | c :: cs => [.word (c :: cs).reverse]

/-- A line's lexemes; blanks and tabs separate, code points 0x7B and 0x7D are the braces. -/
def lex : List Char → List Char → List Lexeme
  | acc, [] => flushWord acc
  | acc, c :: cs =>
    if c = ' ' ∨ c = '\t' then flushWord acc ++ lex [] cs
    else if c = ',' then flushWord acc ++ .comma :: lex [] cs
    else if c.toNat = 0x7B then flushWord acc ++ .openBrace :: lex [] cs
    else if c.toNat = 0x7D then flushWord acc ++ .closeBrace :: lex [] cs
    else lex (c :: acc) cs

/-- A digit's value in a base up to 16. -/
def digit (base : Nat) (c : Char) : Option Nat :=
  let n := c.toNat
  let v := if 48 ≤ n ∧ n ≤ 57 then n - 48
    else if 65 ≤ n ∧ n ≤ 70 then n - 55
    else if 97 ≤ n ∧ n ≤ 102 then n - 87
    else 16
  if v < base then some v else none

/-- The value of digits in a base, after `acc`. -/
def digits (base : Nat) : Nat → List Char → Option Nat
  | acc, [] => some acc
  | acc, c :: cs =>
    match digit base c with
    | some v => digits base (acc * base + v) cs
    | none => none

/-- "Operands are decimal or `0x` hexadecimal 16-bit values" (30_encoding R81). -/
def number (cs : List Char) : Option Word :=
  let v := match cs with
    | [] => none
    | ['0', 'x'] => none
    | '0' :: 'x' :: ds => digits 16 0 ds
    | c :: ds => digits 10 0 (c :: ds)
  match v with
  | some n => if n < 65536 then some (BitVec.ofNat 16 n) else none
  | none => none

/-- One or more numbers separated by commas. -/
def numbers : List Lexeme → Option (List Word)
  | [.word n] => (number n).map fun v => [v]
  | .word n :: .comma :: rest =>
    match number n, numbers rest with
    | some v, some vs => some (v :: vs)
    | _, _ => none
  | _ => none

/-- "A stream is a brace list of 16-bit words" (30_encoding R81); it may be empty (10_state R39). -/
def streamText : List Lexeme → Option (List Word)
  | [.openBrace, .closeBrace] => some []
  | .openBrace :: rest =>
    match rest.getLast? with
    | some .closeBrace => numbers rest.dropLast
    | _ => none
  | _ => none

/-- Four numbers, each with a comma behind it, and what follows them. -/
def fourNumbers : List Lexeme → Option (Word × Word × Word × Word × List Lexeme)
  | .word a :: .comma :: .word b :: .comma :: .word c :: .comma :: .word d :: .comma :: rest =>
    match number a, number b, number c, number d with
    | some a, some b, some c, some d => some (a, b, c, d, rest)
    | _, _, _, _ => none
  | _ => none

/-- The mode names of 30_encoding R81. -/
def modeText (cs : List Char) : Option Mode :=
  if cs = ['P', 'O', 'R', 'T', 'R', 'A', 'I', 'T'] then some .portrait
  else if cs = ['L', 'A', 'N', 'D', 'S', 'C', 'A', 'P', 'E'] then some .landscape
  else if cs = ['P', 'O', 'R', 'T', 'R', 'A', 'I', 'T', '_', 'S', 'W', 'A', 'P', 'P', 'E', 'D'] then
    some .portraitSwapped
  else if cs = ['L', 'A', 'N', 'D', 'S', 'C', 'A', 'P', 'E', '_', 'S', 'W', 'A', 'P', 'P', 'E', 'D'] then
    some .landscapeSwapped
  else none

/-- The operands of a line with a window and a stream. -/
def windowStream (f : Word → Word → Word → Word → List Word → AsmLine) (ls : List Lexeme) : Option AsmLine :=
  match fourNumbers ls with
  | some (a, b, c, d, rest) => (streamText rest).map (f a b c d)
  | none => none

/-- The operands of a mnemonic (30_encoding R81, R82). -/
def operandsText (mnemonic : List Char) (ls : List Lexeme) : Option AsmLine :=
  if mnemonic = ['I', 'N', 'I', 'T'] then
    match ls with
    | [] => some .init
    | _ => none
  else if mnemonic = ['O', 'R', 'I', 'E', 'N', 'T'] then
    match ls with
    | [.word m] => (modeText m).map .orient
    | _ => none
  else if mnemonic = ['O', 'F', 'F', 'S', 'E', 'T'] then
    match numbers ls with
    | some [a, b] => some (.offset a b)
    | _ => none
  else if mnemonic = ['W', 'I', 'N', 'D', 'O', 'W'] then
    match numbers ls with
    | some [a, b, c, d] => some (.window a b c d)
    | _ => none
  else if mnemonic = ['P', 'I', 'X', 'E', 'L'] then
    match numbers ls with
    | some [a, b, c] => some (.pixel a b c)
    | _ => none
  else if mnemonic = ['W', 'P', 'I', 'X'] then (streamText ls).map .wpix
  else if mnemonic = ['W', 'P', 'I', 'X', 'B'] then (streamText ls).map .wpixb
  else if mnemonic = ['S', 'P', 'I', 'X'] then windowStream .spix ls
  else if mnemonic = ['S', 'P', 'I', 'X', 'B'] then windowStream .spixb ls
  else if mnemonic = ['F', 'I', 'L', 'L'] then
    match numbers ls with
    | some [a, b, c, d, e] => some (.fill a b c d e)
    | _ => none
  else none

/-- The line a text stands for; none where the text is no line, or its `FILL` is ill formed. -/
def AsmLine.ofText (cs : List Char) : Option AsmLine :=
  match lex [] cs with
  | .word m :: ls =>
    match operandsText m ls with
    | some l => if l.wellFormed then some l else none
    | none => none
  | _ => none

/-- The lines of a text; the first list is the line read so far, last character first. -/
def textLines : List Char → List Char → List (List Char)
  | acc, [] => [acc.reverse]
  | acc, c :: cs => if c = '\n' then acc.reverse :: textLines [] cs else textLines (c :: acc) cs

/-- "One operation per line" (30_encoding R81); lines with nothing on them are passed over. -/
def linesOfText : List (List Char) → Option (List AsmLine)
  | [] => some []
  | cs :: rest =>
    match lex [] cs with
    | [] => linesOfText rest
    | _ :: _ =>
      match AsmLine.ofText cs, linesOfText rest with
      | some l, some ls => some (l :: ls)
      | _, _ => none

/-- The program a text stands for. -/
def programOfText (cs : List Char) : Option (List AsmLine) := linesOfText (textLines [] cs)

end Sys2Proof
end

