-- ==== Sys2Proof/Safety.lean ====
section
/-! DEFINITION. What claims are stated in: the invariant of the machine's states, the D/C discipline of the bus
(20_memory R57), the frames of a trace (30_encoding R79), and the rules a host must keep (70_reset R232 to R238). -/

namespace Sys2Proof.Machine

/-! ### The operations' actions, by operation -/

/-- The actions of a command frame run by itself. -/
def commandScript (c : Command) (s : State) : List Action :=
  match c with
  | .swreset => swresetScript s
  | .slpout => slpoutScript s
  | .frmctr1 => frmctr1Script s
  | .frmctr2 => frmctr2Script s
  | .frmctr3 => frmctr3Script s
  | .invctr => invctrScript s
  | .pwctr1 => pwctr1Script s
  | .pwctr2 => pwctr2Script s
  | .pwctr3 => pwctr3Script s
  | .pwctr4 => pwctr4Script s
  | .pwctr5 => pwctr5Script s
  | .vmctr1 => vmctr1Script s
  | .invoff => invoffScript s
  | .invon => invonScript s
  | .madctl => madctlScript s
  | .colmod => colmodScript s
  | .dispon => disponScript s
  | .caset => casetScript s
  | .raset => rasetScript s
  | .ramwr => ramwrScript s

/-- The straight-line actions of an operation at a state, its mode that of the latched command word. -/
def opScript (op : Op) (s : State) : List Action :=
  match op with
  | .init => initScript s
  | .orient => orientScript s.latchedMode s
  | .offset => []
  | .window => windowScript s
  | .pixel => pixelScript s
  | .wpix => ramwrScript s
  | .wpixb => ramwrScript s
  | .spix => windowedScript s
  | .spixb => windowedScript s
  | .frame c => commandScript c s

/-- Which token loop an operation has. -/
def opTail : Op → Tail
  | .wpix => .words
  | .spix => .words
  | .wpixb => .fifo
  | .spixb => .fifo
  | .init => .ends
  | .orient => .ends
  | .offset => .ends
  | .window => .ends
  | .pixel => .ends
  | .frame _ => .ends

/-! ### The invariant -/

/-- Every byte of `BUF` below `n` has been written. -/
def Memory.Written (m : Memory) (n : Nat) : Prop := ∀ a, a < n → ∃ v, m.get a = some v

/-- The width a bus event may have: a write carries 1 to 32 bytes (20_memory R59). -/
def Event.WidthOk : Event → Prop
  | .wr bs _ => 1 ≤ bs.length ∧ bs.length ≤ fifoBytes
  | .pin _ _ _ => True
  | .dly _ => True

/-- The error flags a sequencer state admits (10_state R27, R38; 60_exceptions R204): none while an operation runs, `ERR`
while draining, at most one when idle. -/
def State.StatusOk (s : State) : Prop :=
  match s.fsm with
  | .idle => ¬(s.err = true ∧ s.ill = true)
  | .run _ => s.err = false ∧ s.ill = false
  | .drain => s.err = true ∧ s.ill = false

/-- Where a running operation may stand: at one of its straight-line actions (OFFSET has none), or in the token loop its
kind has, with the pixel FIFO holding whole words it has written (10_state R30). -/
def State.PlaceOk (s : State) (op : Op) : Prop :=
  match s.pos with
  | .script => s.pc < (opScript op s).length ∨ op = .offset
  | .token => opTail op = .words ∨ (opTail op = .fifo ∧ s.idx < fifoBytes ∧ s.buf.Written s.idx)
  | .write _ => opTail op = .words
  | .flush last =>
    opTail op = .fifo ∧ 0 < s.idx ∧ s.buf.Written s.idx ∧
      (if last then s.idx < fifoBytes else s.idx = fifoBytes)

/-- The operation that runs is the one the latched command word encodes (10_state R38); a frame run by itself has no
command word. -/
def State.LatchOk (s : State) (op : Op) : Prop :=
  match op with
  | .frame _ => True
  | .init | .orient | .offset | .window | .pixel | .wpix | .wpixb | .spix | .spixb =>
    decodeCommand s.opl.cmd = .instr (op.instr s.latchedMode)

/-- The invariant every step keeps. -/
structure State.Inv (s : State) : Prop where
  /-- the parameters pass their checks (WellFormed.lean) -/
  params  : s.par.WellFormed
  /-- `BUF` has its canonical form -/
  bufForm : s.buf.wf
  /-- `IDX` is in {0, 2, ..., 32} (10_state R30, 20_memory R58(a)) -/
  idxEven : s.idx % 2 = 0
  idxTop  : s.idx ≤ fifoBytes
  status  : s.StatusOk
  place   : ∀ op, s.fsm = .run op → s.PlaceOk op
  rest    : (∀ op, s.fsm ≠ .run op) → s.pos = .script
  latch   : ∀ op, s.fsm = .run op → s.LatchOk op
  /-- the frame slot holds catalog opcodes only (30_encoding R77) -/
  slot    : ∀ b, s.framePort = some b → ∃ c, s.par.opc.opcode c = b
  /-- 20_memory R59 -/
  widths  : ∀ e ∈ s.tr, e.WidthOk

/-! ### The D/C discipline -/

/-- The level of the last D/C drive in a list of actions. -/
def lastDc : List Action → Option Level
  | [] => none
  | a :: as =>
    match lastDc as, a with
    | some l, _ => some l
    | none, .drive .dc l => some l
    | none, _ => none

/-- A delivered byte is data, sent while D/C is high, or a catalog opcode, sent while it is low (20_memory R57,
30_encoding R77). -/
def BusByte.Framed (opc : OpcTable) (b : BusByte) : Prop :=
  b.dc = .known .hi ∨ (b.dc = .known .lo ∧ ∃ c, b.byte = opc.opcode c)

/-- D/C stands where the running operation's own drives have put it, high throughout a token loop, and every delivered
byte was framed (20_memory R57). -/
structure State.DcInv (s : State) : Prop where
  level : ∀ op, s.fsm = .run op →
    match s.pos with
    | .script => ∀ l, lastDc ((opScript op s).take s.pc) = some l → s.dcQ = .known l
    | .token | .write _ | .flush _ => s.dcQ = .known .hi
  framed : ∀ b ∈ s.bus, b.Framed s.par.opc

/-! ### Traces -/

/-- The bytes of the writes in a trace that were answered OK. -/
def sentBytes : List Event → List Byte
  | [] => []
  | .wr bs .ok :: es => bs ++ sentBytes es
  | _ :: es => sentBytes es

/-- A trace cut before each `PIN(DC,0)` (30_encoding R79): what stands before the first one, then the frames. -/
def splitFrames : List Event → List Event × List (List Event)
  | [] => ([], [])
  | e :: es =>
    let (head, frames) := splitFrames es
    if e = .pin .dc .lo .ok then ([], (e :: head) :: frames) else (e :: head, frames)

/-! ### What a host must keep -/

end Sys2Proof.Machine

namespace Sys2Proof

/-- Lines whose effect on the panel needs INIT first: all but INIT and OFFSET (70_reset R232). -/
def AsmLine.needsInit : AsmLine → Bool
  | .init => false
  | .offset _ _ => false
  | .orient _ | .window _ _ _ _ | .pixel _ _ _ | .wpix _ | .wpixb _ | .spix _ _ _ _ _
  | .spixb _ _ _ _ _ | .fill _ _ _ _ _ => true

/-- Lines that send a window (70_reset R236). -/
def AsmLine.sendsWindow : AsmLine → Bool
  | .window _ _ _ _ | .pixel _ _ _ | .spix _ _ _ _ _ | .spixb _ _ _ _ _ | .fill _ _ _ _ _ => true
  | .init | .orient _ | .offset _ _ | .wpix _ | .wpixb _ => false

/-- Lines that stream into the window already sent (70_reset R236). -/
def AsmLine.streamsBare : AsmLine → Bool
  | .wpix _ | .wpixb _ => true
  | .init | .orient _ | .offset _ _ | .window _ _ _ _ | .pixel _ _ _ | .spix _ _ _ _ _
  | .spixb _ _ _ _ _ | .fill _ _ _ _ _ => false

/-- The number of pixels of the inclusive window `(sx, sy, ex, ey)` (45_drawing R175, 70_reset R237). For `ex < sx` or
`ey < sy` the spec's `ex - sx + 1` is zero or negative and it gives it no unsigned meaning: the difference is cut off at
0, so that such an axis counts 1 (DESIGN CHOICE, log 28). -/
def windowArea (sx sy ex ey : Word) : Nat := (ex.toNat - sx.toNat + 1) * (ey.toNat - sy.toNat + 1)

/-- The stream of a windowed line has one word for each pixel of its window (70_reset R237; corners in reverse order:
log 28). -/
def AsmLine.countMatches : AsmLine → Bool
  | .spix sx sy ex ey ws => ws.length == windowArea sx sy ex ey
  | .spixb sx sy ex ey ws => ws.length == windowArea sx sy ex ey
  | .init | .orient _ | .offset _ _ | .window _ _ _ _ | .pixel _ _ _ | .wpix _ | .wpixb _
  | .fill _ _ _ _ _ => true

/-- No offset sum of the line wraps (70_reset R238). -/
def AsmLine.noWrap (dx dy : Word) : AsmLine → Bool
  | .window sx sy ex ey | .spix sx sy ex ey _ | .spixb sx sy ex ey _ | .fill sx sy ex ey _ =>
    decide (sx.toNat + dx.toNat < 65536 ∧ ex.toNat + dx.toNat < 65536
      ∧ sy.toNat + dy.toNat < 65536 ∧ ey.toNat + dy.toNat < 65536)
  | .pixel x y _ => decide (x.toNat + dx.toNat < 65536 ∧ y.toNat + dy.toNat < 65536)
  | .init | .orient _ | .offset _ _ | .wpix _ | .wpixb _ => true

/-- INIT comes before every line that needs it (70_reset R232), and a window before every bare stream since the last
INIT (R236). `ready` says INIT has run, `windowed` that a window has been sent since. -/
def inOrder : Bool → Bool → List AsmLine → Bool
  | _, _, [] => true
  | ready, windowed, l :: ls =>
    (!l.needsInit || ready) && (!l.streamsBare || windowed)
      && inOrder (ready || l == .init) (if l = .init then false else windowed || l.sendsWindow) ls

/-- The rules a host keeps for a defined result on the panel, as far as the program's text shows them (70_reset R232,
R236 to R238). The block enforces none of them (D22). -/
def hostRules (dx dy : Word) : List AsmLine → Bool
  | ls => inOrder false false ls && offsetRules dx dy ls
where
  /-- R237 and R238, line by line, each line under the offset last set. -/
  offsetRules (dx dy : Word) : List AsmLine → Bool
    | [] => true
    | .offset dx' dy' :: ls => offsetRules dx' dy' ls
    | l :: ls => l.countMatches && l.noWrap dx dy && offsetRules dx dy ls

/-- INIT has run without an error before every line that needs it, and again after every error (70_reset R232, R234),
in a run given as its lines and the `STATUS.ERR` each ended with. -/
def reinitRule : Bool → List (AsmLine × Bool) → Bool
  | _, [] => true
  | ready, (l, err) :: rest =>
    (!l.needsInit || ready) && reinitRule (!err && (ready || l == .init)) rest

/-- Tokens are offered only after a legal command word (70_reset R240), in a schedule of host moves; `legalLast` says
the last word offered was legal. -/
def tokensAfterLegal : Bool → List Machine.HostAction → Bool
  | _, [] => true
  | legalLast, a :: rest =>
    match a with
    | .offerCommand w => tokensAfterLegal (legal w) rest
    | .offerToken _ => legalLast && tokensAfterLegal legalLast rest
    | .regWrite _ _ | .regRead _ | .awaitAccept | .awaitIdle | .blockReset | .pause => tokensAfterLegal legalLast rest

end Sys2Proof
end

