-- ==== Sys2Proof/Certificates/Slice0/Obligations.lean ====
section
/-! DEFINITION. The statements about the block. `Sys2Proof.Spec` writes the spec's tables and pseudocode out flat, event
by event and field by field, without the model's own operations; each statement says the machine does the same. -/

namespace Sys2Proof.Spec

open Sys2Proof.Machine

/-! ### The spec's lists of events, all answered OK -/

/-- `w[15:8]` (00_scope R8). -/
def hiByte (w : Word) : Byte := BitVec.ofNat 8 (w.toNat / 256)

/-- `w[7:0]` (00_scope R8). -/
def loByte (w : Word) : Byte := BitVec.ofNat 8 w.toNat

/-- `[w[15:8], w[7:0]]` (20_memory R56). -/
def bigEndian (w : Word) : List Byte := [hiByte w, loByte w]

/-- `PIN(DC,0)`. -/
def dc0 : Event := .pin .dc .lo .ok

/-- `PIN(DC,1)`. -/
def dc1 : Event := .pin .dc .hi .ok

/-- `WR bytes`. -/
def wr (bs : List Byte) : Event := .wr bs .ok

/-- The 64 events of 42_bringup R137's table, in its order. -/
def initEvents (par : Params) (cfg : Straps) : List Event :=
  [.pin .rst .hi .ok, .dly 10, .pin .rst .lo .ok, .dly 10, .pin .rst .hi .ok,
   dc0, wr [par.opc.swreset], .dly 200,
   dc0, wr [par.opc.slpout], .dly 200,
   dc0, wr [par.opc.frmctr1], dc1, wr par.initParams.frmctr1,
   dc0, wr [par.opc.frmctr2], dc1, wr par.initParams.frmctr2,
   dc0, wr [par.opc.frmctr3], dc1, wr par.initParams.frmctr3,
   dc0, wr [par.opc.invctr], dc1, wr par.initParams.invctr,
   dc0, wr [par.opc.pwctr1], dc1, wr par.initParams.pwctr1,
   dc0, wr [par.opc.pwctr2], dc1, wr par.initParams.pwctr2,
   dc0, wr [par.opc.pwctr3], dc1, wr par.initParams.pwctr3,
   dc0, wr [par.opc.pwctr4], dc1, wr par.initParams.pwctr4,
   dc0, wr [par.opc.pwctr5], dc1, wr par.initParams.pwctr5,
   dc0, wr [par.opc.vmctr1], dc1, wr par.initParams.vmctr1,
   dc0, wr [if cfg.inverted then par.opc.invon else par.opc.invoff],
   dc0, wr [par.opc.madctl], dc1, wr [if cfg.rgb then 0x00 else 0x08],
   dc0, wr [par.opc.colmod], dc1, wr par.initParams.colmod,
   dc0, wr [par.opc.dispon], .dly 200]

/-- The four events of ORIENT, the byte that of 43_orientation R152. -/
def orientEvents (par : Params) (cfg : Straps) (m : Mode) : List Event :=
  [dc0, wr [par.opc.madctl], dc1,
   wr [par.orientBase.base m ||| (if cfg.rgb then 0x00 else 0x08)]]

/-- The five events of the column frame, for the sums `cs`, `ce` (41_address_window R120). -/
def casetEvents (opc : OpcTable) (cs ce : Word) : List Event :=
  [dc0, wr [opc.caset], dc1, wr (bigEndian cs), wr (bigEndian ce)]

/-- The five events of the row frame, for the sums `rs`, `re` (41_address_window R120). -/
def rasetEvents (opc : OpcTable) (rs re : Word) : List Event :=
  [dc0, wr [opc.raset], dc1, wr (bigEndian rs), wr (bigEndian re)]

/-- The three events of the RAMWR frame (45_drawing R171, R177). -/
def ramwrEvents (opc : OpcTable) : List Event := [dc0, wr [opc.ramwr], dc1]

/-- The events of `SetWindow(sx, sy, ex, ey)` under the offset `(dx, dy)`: ten (41_address_window R120, R122). -/
def windowEvents (opc : OpcTable) (dx dy sx sy ex ey : Word) : List Event :=
  casetEvents opc (sx + dx) (ex + dx) ++ rasetEvents opc (sy + dy) (ey + dy)

/-- The events of SET_PIXEL: fourteen (45_drawing R170). -/
def pixelEvents (opc : OpcTable) (dx dy x y color : Word) : List Event :=
  windowEvents opc dx dy x y x y ++ ramwrEvents opc ++ [wr (bigEndian color)]

/-- The events of a command frame the bring-up sends (42_bringup R130, R133, R134). -/
def bringUpFrame (par : Params) (cfg : Straps) : Command → List Event
  | .swreset => [dc0, wr [par.opc.swreset], .dly 200]
  | .slpout => [dc0, wr [par.opc.slpout], .dly 200]
  | .frmctr1 => [dc0, wr [par.opc.frmctr1], dc1, wr par.initParams.frmctr1]
  | .frmctr2 => [dc0, wr [par.opc.frmctr2], dc1, wr par.initParams.frmctr2]
  | .frmctr3 => [dc0, wr [par.opc.frmctr3], dc1, wr par.initParams.frmctr3]
  | .invctr => [dc0, wr [par.opc.invctr], dc1, wr par.initParams.invctr]
  | .pwctr1 => [dc0, wr [par.opc.pwctr1], dc1, wr par.initParams.pwctr1]
  | .pwctr2 => [dc0, wr [par.opc.pwctr2], dc1, wr par.initParams.pwctr2]
  | .pwctr3 => [dc0, wr [par.opc.pwctr3], dc1, wr par.initParams.pwctr3]
  | .pwctr4 => [dc0, wr [par.opc.pwctr4], dc1, wr par.initParams.pwctr4]
  | .pwctr5 => [dc0, wr [par.opc.pwctr5], dc1, wr par.initParams.pwctr5]
  | .vmctr1 => [dc0, wr [par.opc.vmctr1], dc1, wr par.initParams.vmctr1]
  | .invoff => [dc0, wr [par.opc.invoff]]
  | .invon => [dc0, wr [par.opc.invon]]
  | .madctl => [dc0, wr [par.opc.madctl], dc1, wr [if cfg.rgb then 0x00 else 0x08]]
  | .colmod => [dc0, wr [par.opc.colmod], dc1, wr par.initParams.colmod]
  | .dispon => [dc0, wr [par.opc.dispon], .dly 200]
  | .caset => []
  | .raset => []
  | .ramwr => []

/-- The seventeen commands the bring-up sends, INVOFF and INVON both counted. -/
def bringUpCommands : List Command :=
  [.swreset, .slpout, .frmctr1, .frmctr2, .frmctr3, .invctr, .pwctr1, .pwctr2, .pwctr3, .pwctr4,
   .pwctr5, .vmctr1, .invoff, .invon, .madctl, .colmod, .dispon]

/-- The events an instruction emits before any pixel token, operands and offset from `OPL` (30_encoding R75). -/
def events (i : Instr) (s : State) : List Event :=
  match i with
  | .init => initEvents s.par s.cfg
  | .orient m => orientEvents s.par s.cfg m
  | .offset => []
  | .window => windowEvents s.par.opc s.opl.dx s.opl.dy s.opl.a.a0 s.opl.a.a1 s.opl.a.a2 s.opl.a.a3
  | .pixel => pixelEvents s.par.opc s.opl.dx s.opl.dy s.opl.a.a0 s.opl.a.a1 s.opl.a.a2
  | .wpix => ramwrEvents s.par.opc
  | .wpixb => ramwrEvents s.par.opc
  | .spix =>
    windowEvents s.par.opc s.opl.dx s.opl.dy s.opl.a.a0 s.opl.a.a1 s.opl.a.a2 s.opl.a.a3
      ++ ramwrEvents s.par.opc
  | .spixb =>
    windowEvents s.par.opc s.opl.dx s.opl.dy s.opl.a.a0 s.opl.a.a1 s.opl.a.a2 s.opl.a.a3
      ++ ramwrEvents s.par.opc
  | .caset => casetEvents s.par.opc (s.opl.a.a0 + s.opl.dx) (s.opl.a.a2 + s.opl.dx)
  | .raset => rasetEvents s.par.opc (s.opl.a.a1 + s.opl.dy) (s.opl.a.a3 + s.opl.dy)
  | .ramwr => ramwrEvents s.par.opc
  | .swreset => bringUpFrame s.par s.cfg .swreset
  | .slpout => bringUpFrame s.par s.cfg .slpout
  | .frmctr1 => bringUpFrame s.par s.cfg .frmctr1
  | .frmctr2 => bringUpFrame s.par s.cfg .frmctr2
  | .frmctr3 => bringUpFrame s.par s.cfg .frmctr3
  | .invctr => bringUpFrame s.par s.cfg .invctr
  | .pwctr1 => bringUpFrame s.par s.cfg .pwctr1
  | .pwctr2 => bringUpFrame s.par s.cfg .pwctr2
  | .pwctr3 => bringUpFrame s.par s.cfg .pwctr3
  | .pwctr4 => bringUpFrame s.par s.cfg .pwctr4
  | .pwctr5 => bringUpFrame s.par s.cfg .pwctr5
  | .vmctr1 => bringUpFrame s.par s.cfg .vmctr1
  | .invoff => bringUpFrame s.par s.cfg .invoff
  | .invon => bringUpFrame s.par s.cfg .invon
  | .madctl => bringUpFrame s.par s.cfg .madctl
  | .colmod => bringUpFrame s.par s.cfg .colmod
  | .dispon => bringUpFrame s.par s.cfg .dispon

/-- The four operations with a pixel stream (10_state R39). -/
def streams (i : Instr) : Prop := i = .wpix ∨ i = .wpixb ∨ i = .spix ∨ i = .spixb

/-- The twenty controller opcodes. -/
def isFrame (i : Instr) : Prop := ∃ c : Command, i = c.instr

/-! ### What one event does to the state -/

/-- The environment takes no part in a delay (20_memory R54); every other event completes when it is answered OK. -/
def Answered (e : Event) (s : State) : Prop :=
  match e with
  | .dly _ => True
  | .pin _ _ _ => s.nextAnswer = .ok
  | .wr _ _ => s.nextAnswer = .ok

/-- An event that can fail (60_exceptions R201). -/
def fallible : Event → Bool
  | .dly _ => false
  | .pin _ _ _ => true
  | .wr _ _ => true

/-- The event marked FAIL (20_memory R51). -/
def failed : Event → Event
  | .pin l v _ => .pin l v .fail
  | .wr bs _ => .wr bs .fail
  | .dly ms => .dly ms

/-- The state after a completed event, field by field (20_memory R52 to R54; 10_state R29). -/
def completed (e : Event) (s : State) : State :=
  match e with
  | .pin .dc v _ =>
    { s with tr := s.tr ++ [e], dcQ := .known v, pc := s.pc + 1, env := s.env.tail, draws := s.draws + 1 }
  | .pin .rst v _ =>
    { s with tr := s.tr ++ [e], rstQ := .known v, pc := s.pc + 1, env := s.env.tail, draws := s.draws + 1 }
  | .wr bs _ =>
    { s with tr := s.tr ++ [e], bus := s.bus ++ bs.map (fun b => ⟨s.dcQ, b⟩), pc := s.pc + 1,
             env := s.env.tail, draws := s.draws + 1 }
  | .dly _ => { s with tr := s.tr ++ [e], pc := s.pc + 1 }

/-- The state after an event that failed with `k` bytes delivered and the operation abandoned, field by field
(20_memory R52, R53, R60; 60_exceptions R202). -/
def aborted (e : Event) (k : Nat) (streamOpen : Bool) (s : State) : State :=
  let t := { s with tr := s.tr ++ [failed e], err := true, pos := .script,
                    fsm := if streamOpen then .drain else .idle,
                    env := s.env.tail, draws := s.draws + 1 }
  match e with
  | .pin .dc _ _ => { t with dcQ := .unknown }
  | .pin .rst _ _ => { t with rstQ := .unknown }
  | .wr bs _ => { t with bus := s.bus ++ (bs.take k).map (fun b => ⟨s.dcQ, b⟩) }
  | .dly _ => t

/-- The state after acceptance of the command word `w` for the operation `op` (10_state R38). -/
def accepted (w : Word) (op : Op) (s : State) : State :=
  { s with err := false, ill := false, opl := ⟨w, s.arg, s.dx, s.dy⟩, pc := 0, fsm := .run op,
           pos := .script, cmdPort := none }

/-- The twelve legal command words and their instructions (30_encoding R71, R72, R80). -/
def legalWords : List (Word × Instr) :=
  [(0x0001, .init), (0x0002, .orient .portrait), (0x0012, .orient .landscape),
   (0x0022, .orient .portraitSwapped), (0x0032, .orient .landscapeSwapped), (0x0003, .offset),
   (0x0004, .window), (0x0005, .pixel), (0x0006, .wpix), (0x0007, .wpixb), (0x0008, .spix),
   (0x0009, .spixb)]

/-- A machine at rest with a command word offered, the host leaving the block to run and the environment's next answers
being `answers`. -/
structure Offered (s : State) (w : Word) (answers : List Answer) : Prop where
  idle  : s.fsm = .idle
  slot  : s.framePort = none
  host  : s.host = []
  cmd   : s.cmdPort = some w
  env   : s.env = answers

/-- An operation that ended without an error: the events it added, the environment's answers left, and that the
offsets, operand registers, straps, parameters and the tokens left are as said (10_state R33). -/
structure Ended (s t : State) (new : List Event) (env : List Answer) (pix : List Token) : Prop where
  trace  : t.tr = s.tr ++ new
  fsm    : t.fsm = .idle
  err    : t.err = false
  ill    : t.ill = false
  env    : t.env = env
  pix    : t.pix = pix
  dx     : t.dx = s.dx
  dy     : t.dy = s.dy
  arg    : t.arg = s.arg
  cfg    : t.cfg = s.cfg
  par    : t.par = s.par
  port   : t.cmdPort = none

/-- The next state of an outcome changed by `f`. -/
def mapNext (f : State → State) : StepResult → StepResult
  | .next t => .next (f t)
  | .fault r => .fault r
  | .refused r => .refused r

end Sys2Proof.Spec

open Sys2Proof Sys2Proof.Machine Sys2Proof.Spec

/-! ### Reset and the invariants -/

/-- 70_reset R230's table, for every instance. (`OPL` and `BUF`, which the table leaves unspecified, are not named.) -/
def Obligations.ResetLeavesTheStatedValues : Prop :=
  ∀ (cfg : Straps) (par : Params),
    let s := State.resetWith cfg par
    s.cfg = cfg ∧ s.dx = 0 ∧ s.dy = 0 ∧ s.arg = ⟨0, 0, 0, 0⟩ ∧ s.statusWord = 0 ∧ s.err = false ∧
    s.ill = false ∧ s.fsm = .idle ∧ s.pc = 0 ∧ s.idx = 0 ∧ s.dcQ = par.dcInit ∧
    s.rstQ = par.rstInit ∧ s.tr = []

/-- The invariants hold right after reset, for every instance whose parameters pass their checks. -/
def Obligations.ResetMeetsTheInvariants : Prop :=
  ∀ (cfg : Straps) (par : Params), par.WellFormed →
    (State.resetWith cfg par).Inv ∧ (State.resetWith cfg par).DcInv

/-- Every step of the machine, the host's moves and block resets among them, keeps the invariant. -/
def Obligations.EveryStepKeepsTheInvariant : Prop :=
  ∀ s t : State, s.Inv → Machine.step s = .next t → t.Inv

/-- From a state that meets the invariant the machine never stops: no fault and no refusal. In particular no byte of
`BUF` is read before it is written (10_state R30) and no index leaves the buffer (20_memory R58). -/
def Obligations.InvariantStatesNeverStop : Prop :=
  ∀ s : State, s.Inv → ∃ t, Machine.step s = .next t

/-- 20_memory R57 and 30_encoding R77: D/C stands where the running operation put it, and every byte delivered on the
bus is data sent with D/C high or a catalog opcode sent with D/C low. -/
def Obligations.EveryStepKeepsTheDcDiscipline : Prop :=
  ∀ s t : State, s.Inv → s.DcInv → Machine.step s = .next t → t.DcInv

/-! ### Encoding -/

/-- Words written out from 30_encoding R71, R72 and R77 decode to what they stand for. -/
def Obligations.SpecWordsDecode : Prop :=
  decodeTableWord 16 0b0000000000000001 = some .init ∧
  decodeTableWord 16 0b0000000000110010 = some (.orient .landscapeSwapped) ∧
  decodeTableWord 16 0b0000000000000011 = some .offset ∧
  decodeTableWord 16 0b0000000000000100 = some .window ∧
  decodeTableWord 16 0b0000000000001001 = some .spixb ∧
  decodeTableWord 8 0b00101010 = some .caset ∧
  decodeTableWord 8 0b10110001 = some .frmctr1 ∧
  decodeTableWord 16 0b0000000000001010 = none ∧
  decodeTableWord 16 0b0000000000010011 = none

/-- 30_encoding R80: exactly the twelve legal words decode, each to its instruction, and `Legal(cmd)` says which. -/
def Obligations.DecodingAcceptsExactlyTheLegalWords : Prop :=
  (∀ (w : Word) (i : Instr), decodeCommand w = .instr i ↔ (w, i) ∈ legalWords) ∧
  (∀ w : Word, legal w = true ↔ ∃ i, (w, i) ∈ legalWords)

/-- For every catalog with pairwise distinct values (30_encoding R78), decoding what was encoded gives every instruction
back. -/
def Obligations.DecodeOfEncodeIsTheInstruction : Prop :=
  ∀ (t : OpcTable) (i : Instr), t.Distinct → decode t (encode t i) = .instr i

/-- For every catalog, an encoding that decodes is the encoding of what it decodes to. -/
def Obligations.EncodeOfDecodeIsTheEncoding : Prop :=
  ∀ (t : OpcTable) (e : Encoding) (i : Instr), decode t e = .instr i → encode t i = e

/-! ### The step, acceptance, and what the block leaves alone -/

/-- When it is the block's turn (the host has no move, pauses or waits; `u` is the state it leaves the block) and the
running operation, or the word or opcode at an idle block, decodes to `i`, the step is `exec i` (10_state R28, R38). -/
def Obligations.StepRunsTheDecodedInstruction : Prop :=
  ∀ (s u : State) (i : Instr), hostTurn s = .block u →
    ((∃ op, u.fsm = .run op ∧ op.instr (Mode.ofBits (orientField u.opl.cmd)) = i) ∨
     (∃ w, u.fsm = .idle ∧ u.framePort = none ∧ u.cmdPort = some w ∧ decode u.par.opc (.command w) = .instr i) ∨
     (∃ b, u.fsm = .idle ∧ u.framePort = some b ∧ decode u.par.opc (.opcode b) = .instr i)) →
    Machine.step s = exec i u

/-- 10_state R38: a legal word on the port of an idle block is accepted in one step, whatever INIT has or has not done
(70_reset R232): flags cleared, operands and offset latched, `PC` 0, `FSM` `RUN(op)`, nothing else. -/
def Obligations.LegalWordIsAccepted : Prop :=
  ∀ (s u : State) (w : Word) (i : Instr), hostTurn s = .block u → u.fsm = .idle → u.framePort = none →
    u.cmdPort = some w → (w, i) ∈ legalWords → Machine.step s = .next (accepted w i.op u)

/-- 60_exceptions R203: an illegal word sets `ILL` and changes no other register; `ERR` is cleared as at every
acceptance (10_state R38). That the word leaves the port is the model's reading (log 25, DEDUCED). -/
def Obligations.IllegalWordOnlySetsIll : Prop :=
  ∀ (s u : State) (w : Word), hostTurn s = .block u → u.fsm = .idle → u.framePort = none → u.cmdPort = some w →
    (∀ i, (w, i) ∉ legalWords) →
    Machine.step s = .next { u with err := false, ill := true, cmdPort := none }

/-- A controller opcode in the frame slot of an idle block starts its frame as an acceptance would, with `OPL.CMD` left
as it was (the model's choice, log 9 and log 10). -/
def Obligations.FrameStartLatchesOperands : Prop :=
  ∀ (s u : State) (c : Command), hostTurn s = .block u → u.fsm = .idle → u.par.opc.Distinct →
    u.framePort = some (u.par.opc.opcode c) →
    Machine.step s = .next { accepted u.opl.cmd (.frame c) u with framePort := none, cmdPort := u.cmdPort }

/-- 10_state R37: while an operation runs or drains, a step of the block, whether the host has no move, pauses or waits,
leaves the offered command on the port and the latch as it is, and starts no other operation. -/
def Obligations.BusyBlockLeavesTheOfferedCommand : Prop :=
  ∀ s t u : State, hostTurn s = .block u → s.fsm ≠ .idle → Machine.step s = .next t →
    t.cmdPort = s.cmdPort ∧ t.opl = s.opl ∧ (t.fsm = s.fsm ∨ t.fsm = .drain ∨ t.fsm = .idle)

/-- 10_state R24: a step that changes `DX` or `DY` is a block reset or ends OFFSET. -/
def Obligations.OnlyOffsetWritesTheOffsets : Prop :=
  ∀ s t : State, Machine.step s = .next t → (t.dx ≠ s.dx ∨ t.dy ≠ s.dy) →
    s.host.head? = some .blockReset ∨
    (s.fsm = .run .offset ∧ t.dx = s.opl.a.a0 ∧ t.dy = s.opl.a.a1 ∧ t.fsm = .idle)

/-- 10_state R21 to R23 and 20_memory R65: no step, the host's among them, changes a strap or a parameter. -/
def Obligations.NoStepChangesStrapsOrParameters : Prop :=
  ∀ s t : State, Machine.step s = .next t → t.cfg = s.cfg ∧ t.par = s.par

/-- The frame of every instruction, started from idle, running or draining: what `exec` leaves unchanged whatever the
environment answers. (In a state where some other operation runs, the step never calls this instruction's meaning.)
Straps, parameters,
`ARG`, the host's schedule and its last reply, always; the offsets but for OFFSET; `RST_Q` but for INIT; `IDX` and every
byte of `BUF` but for the buffered streams; the latch but at a start from idle. -/
def Obligations.ExecLeavesTheRestUnchanged : Prop :=
  ∀ (i : Instr) (s t : State), s.Inv → (∀ op, s.fsm = .run op → op = i.op) → exec i s = .next t →
    t.cfg = s.cfg ∧ t.par = s.par ∧ t.arg = s.arg ∧ t.host = s.host ∧ t.rdata = s.rdata ∧
    (i ≠ .offset → t.dx = s.dx ∧ t.dy = s.dy) ∧
    (i ≠ .init → t.rstQ = s.rstQ) ∧
    (i ≠ .wpixb ∧ i ≠ .spixb → t.idx = s.idx ∧ ∀ a, t.buf.get a = s.buf.get a) ∧
    (s.fsm ≠ .idle → t.opl = s.opl ∧ t.cmdPort = s.cmdPort ∧ t.framePort = s.framePort ∧ t.ill = s.ill)

/-- 10_state R26: a running operation reads only `OPL`: changing `ARG`, `DX` and `DY` under it changes nothing else of
what its step does. (OFFSET overwrites `DX` and `DY`.) -/
def Obligations.RunningOperationReadsOnlyTheLatch : Prop :=
  ∀ (i : Instr) (s : State) (arg : Operands) (dx dy : Word), s.fsm ≠ .idle →
    exec i { s with arg := arg, dx := dx, dy := dy } =
      mapNext (fun t => if i = .offset ∧ s.fsm ≠ .drain then { t with arg := arg }
                        else { t with arg := arg, dx := dx, dy := dy }) (exec i s)

/-- 20_memory R62: a step of the block appends at most one event to the trace and takes nothing from it, and a step that
accepts a command appends none. -/
def Obligations.StepAppendsAtMostOneEvent : Prop :=
  ∀ s t : State, s.host.head? ≠ some .blockReset → Machine.step s = .next t →
    (t.tr = s.tr ∨ ∃ e, t.tr = s.tr ++ [e]) ∧ (s.fsm = .idle → t.tr = s.tr)

/-- 10_state R39: a step of the block takes a pixel token only in `DRAIN` or in a stream operation's token loop, and
then the first one offered; it emits no event with it. -/
def Obligations.TokensAreTakenOnlyInLoopsOrDrain : Prop :=
  ∀ s t u : State, hostTurn s = .block u → Machine.step s = .next t → t.pix ≠ s.pix →
    t.tr = s.tr ∧ t.pix = s.pix.tail ∧
    (s.fsm = .drain ∨ (s.pos = .token ∧ ∃ op, s.fsm = .run op ∧ opTail op ≠ .ends))

/-! ### Each instruction's own effect

That an operation is idle, or in its token loop, in the very step of its last straight-line action, and aborted in that
of the failed one, is the model's reading of 00_scope R9 (log 14, DEDUCED). -/

/-- 44_offset R160: OFFSET, running, writes `DX` and `DY` from the latch and ends; no event, no draw, `ERR` as it was. -/
def Obligations.OffsetWritesTheOffsets : Prop :=
  ∀ s : State, s.fsm = .run .offset →
    exec .offset s = .next { s with dx := s.opl.a.a0, dy := s.opl.a.a1, fsm := .idle, pos := .script }

/-- 42_bringup R130 and R137: INIT at any of its 64 actions, answered OK, completes that event of R137's table and
nothing else; the last one ends the operation. -/
def Obligations.InitCompletesEachEvent : Prop :=
  ∀ (s : State) (e : Event), s.fsm = .run .init → s.pos = .script → s.par.initParams.Fits →
    (initEvents s.par s.cfg)[s.pc]? = some e → Answered e s →
    exec .init s = .next (if s.pc = 63 then { completed e s with fsm := .idle } else completed e s)

/-- 43_orientation R150 and R152: ORIENT completes each of its four events, the last with the orientation byte. -/
def Obligations.OrientCompletesEachEvent : Prop :=
  ∀ (s : State) (m : Mode) (e : Event), s.fsm = .run .orient → s.pos = .script →
    (orientEvents s.par s.cfg m)[s.pc]? = some e → Answered e s →
    exec (.orient m) s = .next (if s.pc = 3 then { completed e s with fsm := .idle } else completed e s)

/-- 41_address_window R120 to R122: WINDOW completes each of its ten events; CASET and RASET by themselves (log 9,
log 27) each of their five. -/
def Obligations.WindowCompletesEachEvent : Prop :=
  ∀ (s : State) (i : Instr) (e : Event), i = .window ∨ i = .caset ∨ i = .raset →
    s.fsm = .run i.op → s.pos = .script → (events i s)[s.pc]? = some e → Answered e s →
    exec i s = .next (if s.pc + 1 = (events i s).length then { completed e s with fsm := .idle }
                      else completed e s)

/-- 45_drawing R170: PIXEL completes each of its fourteen events; RAMWR by itself (log 9) each of its three. -/
def Obligations.PixelCompletesEachEvent : Prop :=
  ∀ (s : State) (i : Instr) (e : Event), i = .pixel ∨ i = .ramwr →
    s.fsm = .run i.op → s.pos = .script → (events i s)[s.pc]? = some e → Answered e s →
    exec i s = .next (if s.pc + 1 = (events i s).length then { completed e s with fsm := .idle }
                      else completed e s)

/-- 40_framer R100 and 42_bringup R130: each of the seventeen bring-up commands, run by itself (log 9), completes each
event of its frame. -/
def Obligations.BringUpCommandsCompleteEachEvent : Prop :=
  ∀ (s : State) (c : Command) (e : Event), c ∈ bringUpCommands →
    s.fsm = .run (.frame c) → s.pos = .script → s.par.initParams.Fits →
    (bringUpFrame s.par s.cfg c)[s.pc]? = some e → Answered e s →
    exec c.instr s =
      .next (if s.pc + 1 = (bringUpFrame s.par s.cfg c).length then { completed e s with fsm := .idle }
             else completed e s)

/-- 45_drawing R171 to R174: before its stream, each stream operation completes the events of its window and of RAMWR;
after the last it goes to its token loop, the buffered ones with `IDX` 0 (40_framer R103). -/
def Obligations.StreamsCompleteEachHeadEvent : Prop :=
  ∀ (s : State) (i : Instr) (e : Event), streams i →
    s.fsm = .run i.op → s.pos = .script → (events i s)[s.pc]? = some e → Answered e s →
    exec i s = .next (
      if s.pc + 1 < (events i s).length then completed e s
      else if i = .wpix ∨ i = .spix then { completed e s with pos := .token }
      else { completed e s with pos := .token, idx := 0 })

/-- 45_drawing R171 and R173: in the token loop of WPIX and SPIX a word is taken, then sent as one two-byte write before
the next token is taken; `END` ends the operation; without a token the block waits. -/
def Obligations.UnbufferedLoopSendsEachWord : Prop :=
  ∀ (s : State) (i : Instr), i = .wpix ∨ i = .spix → s.fsm = .run i.op →
    (s.pos = .token → s.pix = [] → exec i s = .next s) ∧
    (∀ w rest, s.pos = .token → s.pix = .word w :: rest →
      exec i s = .next { s with pix := rest, pc := s.pc + 1, pos := .write w }) ∧
    (∀ w, s.pos = .write w → s.nextAnswer = .ok →
      exec i s = .next { completed (wr (bigEndian w)) s with pos := .token }) ∧
    (∀ rest, s.pos = .token → s.pix = .last :: rest →
      exec i s = .next { s with pix := rest, pc := s.pc + 1, pos := .script, fsm := .idle })

/-- 40_framer R103: in the token loop of WPIXB and SPIXB, from a state that meets the invariant, a word is appended at
`IDX` big-endian and every other byte of `BUF` keeps its value; the sixteenth makes a full flush next; without a token
the block waits; `END` ends the operation at once when `IDX` is 0 (log 13, DEDUCED) and else makes the final flush
next. -/
def Obligations.BufferedLoopAppendsEachWord : Prop :=
  ∀ (s : State) (i : Instr), i = .wpixb ∨ i = .spixb → s.Inv → s.fsm = .run i.op → s.pos = .token →
    (s.pix = [] → exec i s = .next s) ∧
    (∀ w rest, s.pix = .word w :: rest → ∃ m : Memory,
      exec i s = .next { s with pix := rest, pc := s.pc + 1, buf := m, idx := s.idx + 2,
                                pos := if s.idx + 2 = 32 then .flush false else .token } ∧
      m.get s.idx = some (hiByte w) ∧ m.get (s.idx + 1) = some (loByte w) ∧
      ∀ a, a ≠ s.idx → a ≠ s.idx + 1 → m.get a = s.buf.get a) ∧
    (∀ rest, s.pix = .last :: rest →
      exec i s = .next (
        if s.idx = 0 then { s with pix := rest, pc := s.pc + 1, pos := .script, fsm := .idle }
        else { s with pix := rest, pc := s.pc + 1, pos := .flush true }))

/-- 40_framer R103: a flush sends the `IDX` bytes at the front of `BUF` as one write. A full flush sets `IDX` to 0 and
goes back to the tokens; the final flush ends the operation. No byte of `BUF` changes. -/
def Obligations.FlushSendsTheBufferedBytes : Prop :=
  ∀ (s : State) (i : Instr) (last : Bool), i = .wpixb ∨ i = .spixb → s.Inv → s.fsm = .run i.op →
    s.pos = .flush last → s.nextAnswer = .ok →
    ∃ bs : List Byte, bs.length = s.idx ∧ (∀ a, a < s.idx → bs[a]? = s.buf.get a) ∧
      exec i s = .next (
        if last then { completed (wr bs) s with pos := .script, fsm := .idle }
        else { completed (wr bs) s with pos := .token, idx := 0 })

/-! ### The abort -/

/-- 60_exceptions R202 (20_memory R52, R53, R60): whichever of its listed events an operation fails at, the failed event
is the last of the trace, a failed line is UNKNOWN, a failed write delivered the drawn prefix, `ERR` is set, and the
operation ends; a stream operation drains. `PC` still counts the actions before it (R206). Of the twenty command frames
run by themselves this is the model's choice (log 9, log 27); that `BUF` and `IDX` keep their values is its reading (log
15, DEDUCED), and that the abort falls in the failed event's step another (log 14, DEDUCED). -/
def Obligations.FailedEventAbortsTheOperation : Prop :=
  ∀ (s : State) (i : Instr) (e : Event) (k : Nat) (streamOpen : Bool),
    (streamOpen = true ↔ streams i) → s.fsm = .run i.op → s.pos = .script → s.par.initParams.Fits →
    (events i s)[s.pc]? = some e → fallible e = true → s.nextAnswer = .fail k →
    exec i s = .next (aborted e k streamOpen s)

/-- 60_exceptions R202, inside a token loop: a failed write of a word, or a failed full flush, drains; a failed final
flush, made after `END`, ends the operation. R202 says the FIFO's contents are lost; that `BUF` and `IDX` keep their values
is the model's reading (log 15, DEDUCED), and so is the abort in the failed event's own step (log 14, DEDUCED). -/
def Obligations.FailedStreamWriteAborts : Prop :=
  ∀ (s : State) (i : Instr) (k : Nat), s.Inv → s.fsm = .run i.op → s.nextAnswer = .fail k →
    (∀ w, i = .wpix ∨ i = .spix → s.pos = .write w →
      exec i s = .next (aborted (wr (bigEndian w)) k true s)) ∧
    (∀ last, i = .wpixb ∨ i = .spixb → s.pos = .flush last →
      ∃ bs : List Byte, bs.length = s.idx ∧ (∀ a, a < s.idx → bs[a]? = s.buf.get a) ∧
        exec i s = .next (aborted (wr bs) k (!last) s))

/-- 60_exceptions R202: draining discards the words up to `END` and takes `END`, with no event and no draw, and leaves
the block idle, `ERR` as it was; here the stream's `END` is already on the port (`DrainStepTakesAtMostOneToken` says one
step of any drain). That `PC` does not count the tokens drained is the model's reading (log 12, DEDUCED). -/
def Obligations.DrainDiscardsTheStreamUpToItsEnd : Prop :=
  ∀ (s : State) (ws : List Word) (rest : List Token), s.host = [] → s.fsm = .drain →
    s.pix = ws.map .word ++ .last :: rest →
    Host.Core.run core (ws.length + 1) s = .next { s with pix := rest, fsm := .idle, pos := .script }

/-- 42_bringup R136 and 60_exceptions R206: an INIT whose event number `j` (from 0) of R137's table is answered FAIL,
every earlier one OK, leaves exactly the events before it and the failed one in the trace, and is idle with `ERR`
set. That this takes `j + 2` steps rests on log 14 (DEDUCED). -/
def Obligations.InitAbortsAtTheFailedEvent : Prop :=
  ∀ (s : State) (j k : Nat) (e : Event) (rest : List Answer), s.par.initParams.Fits →
    (initEvents s.par s.cfg)[j]? = some e → fallible e = true →
    Offered s 0x0001
      (List.replicate (((initEvents s.par s.cfg).take j).countP fallible) .ok ++ .fail k :: rest) →
    ∃ t, Host.Core.run core (j + 2) s = .next t ∧
      t.tr = s.tr ++ (initEvents s.par s.cfg).take j ++ [failed e] ∧
      t.fsm = .idle ∧ t.err = true ∧ t.ill = false ∧ t.pc = j ∧ t.env = rest

/-! ### Whole operations -/

/-- 42_bringup R137: with every answer OK, INIT emits exactly the 64 events of the table, leaves D/C low and the reset
line high (R130), and ends without an error. That it is idle after 65 steps, acceptance (10_state R38) and one for each
event, rests on log 14 (DEDUCED). -/
def Obligations.InitEmitsTheWholeScript : Prop :=
  ∀ (s : State) (rest : List Answer), s.par.initParams.Fits →
    Offered s 0x0001 (List.replicate 59 .ok ++ rest) →
    ∃ t, Host.Core.run core 65 s = .next t ∧ Ended s t (initEvents s.par s.cfg) rest s.pix ∧
      t.pc = 64 ∧ t.dcQ = .known .lo ∧ t.rstQ = .known .hi

/-- 43_orientation R150: ORIENT sends its one frame and ends. (The step count: log 14.) -/
def Obligations.OrientSendsTheOrientationByte : Prop :=
  ∀ (s : State) (m : Mode) (w : Word) (rest : List Answer), (w, .orient m) ∈ legalWords →
    Offered s w (List.replicate 4 .ok ++ rest) →
    ∃ t, Host.Core.run core 5 s = .next t ∧ Ended s t (orientEvents s.par s.cfg m) rest s.pix

/-- 41_address_window R120 to R122: WINDOW sends the corners of `ARG` plus the offset, modulo 2^16, and ends. (The step
count: log 14.) -/
def Obligations.WindowSendsTheOffsetCorners : Prop :=
  ∀ (s : State) (rest : List Answer), Offered s 0x0004 (List.replicate 10 .ok ++ rest) →
    ∃ t, Host.Core.run core 11 s = .next t ∧
      Ended s t (windowEvents s.par.opc s.dx s.dy s.arg.a0 s.arg.a1 s.arg.a2 s.arg.a3) rest s.pix

/-- 45_drawing R170: PIXEL sends the one-pixel window and the colour word, and ends. (The step count: log 14.) -/
def Obligations.PixelSendsWindowAndColour : Prop :=
  ∀ (s : State) (rest : List Answer), Offered s 0x0005 (List.replicate 14 .ok ++ rest) →
    ∃ t, Host.Core.run core 15 s = .next t ∧
      Ended s t (pixelEvents s.par.opc s.dx s.dy s.arg.a0 s.arg.a1 s.arg.a2) rest s.pix

/-- 44_offset R160: OFFSET is accepted in one step, after which BUSY reads 1, and in the next sets `DX` and `DY` to the
operands and ends, with no event and no flag, whatever the environment would answer. -/
def Obligations.OffsetTakesTwoSteps : Prop :=
  ∀ (s : State) (answers : List Answer), Offered s 0x0003 answers →
    Host.Core.run core 1 s = .next (accepted 0x0003 .offset s) ∧ (accepted 0x0003 .offset s).statusWord = 1 ∧
    Host.Core.run core 2 s =
      .next { accepted 0x0003 .offset s with dx := s.arg.a0, dy := s.arg.a1, fsm := .idle }

/-- 45_drawing R171 and R173: WPIX sends RAMWR and one two-byte write for each word of its stream, SPIX its window
before that; the tokens up to `END` are taken and no other. (The step counts: log 14.) -/
def Obligations.UnbufferedStreamSendsOneWriteAWord : Prop :=
  ∀ (s : State) (ws : List Word) (more : List Token) (rest : List Answer),
    s.pix = ws.map .word ++ .last :: more →
    (Offered s 0x0006 (List.replicate (3 + ws.length) .ok ++ rest) →
      ∃ t, Host.Core.run core (5 + 2 * ws.length) s = .next t ∧
        Ended s t (ramwrEvents s.par.opc ++ ws.map (fun w => wr (bigEndian w))) rest more) ∧
    (Offered s 0x0008 (List.replicate (13 + ws.length) .ok ++ rest) →
      ∃ t, Host.Core.run core (15 + 2 * ws.length) s = .next t ∧
        Ended s t (windowEvents s.par.opc s.dx s.dy s.arg.a0 s.arg.a1 s.arg.a2 s.arg.a3
          ++ ramwrEvents s.par.opc ++ ws.map (fun w => wr (bigEndian w))) rest more)

/-- 40_framer R104 and 45_drawing R172, R174: a buffered stream of `n` words sends exactly `ceil(n/16)` flushes, all but
the last of 32 bytes and none longer, whose concatenation is the big-endian encoding of the words. (The step counts: log
13, log 14.) -/
def Obligations.BufferedStreamObeysTheTransactionLaw : Prop :=
  ∀ (s : State) (ws : List Word) (more : List Token) (rest : List Answer),
    s.pix = ws.map .word ++ .last :: more →
    (Offered s 0x0007 (List.replicate (3 + (ws.length + 15) / 16) .ok ++ rest) →
      ∃ t, ∃ flushes : List (List Byte),
        Host.Core.run core (5 + ws.length + (ws.length + 15) / 16) s = .next t ∧
        Ended s t (ramwrEvents s.par.opc ++ flushes.map wr) rest more ∧
        flushes.length = (ws.length + 15) / 16 ∧ flushes.flatten = ws.flatMap bigEndian ∧
        (∀ f ∈ flushes, 1 ≤ f.length ∧ f.length ≤ 32) ∧ (∀ f ∈ flushes.dropLast, f.length = 32)) ∧
    (Offered s 0x0009 (List.replicate (13 + (ws.length + 15) / 16) .ok ++ rest) →
      ∃ t, ∃ flushes : List (List Byte),
        Host.Core.run core (15 + ws.length + (ws.length + 15) / 16) s = .next t ∧
        Ended s t (windowEvents s.par.opc s.dx s.dy s.arg.a0 s.arg.a1 s.arg.a2 s.arg.a3
          ++ ramwrEvents s.par.opc ++ flushes.map wr) rest more ∧
        flushes.length = (ws.length + 15) / 16 ∧ flushes.flatten = ws.flatMap bigEndian ∧
        (∀ f ∈ flushes, 1 ≤ f.length ∧ f.length ≤ 32) ∧ (∀ f ∈ flushes.dropLast, f.length = 32))

/-- 40_framer R105: with every answer OK, the unbuffered path makes one transaction for each of its `n` words and the
buffered one `ceil(n/16)` (beside RAMWR's three events); both put the same bytes on the bus in the same order, with D/C
at the same level. (The step counts: log 13, log 14.) -/
def Obligations.BothPathsPutTheSameBytesOnTheBus : Prop :=
  ∀ (s u : State) (ws : List Word) (more : List Token) (rest : List Answer),
    s.pix = ws.map .word ++ .last :: more → u = { s with cmdPort := some 0x0007 } →
    Offered s 0x0006 (List.replicate (3 + ws.length) .ok ++ rest) →
    ∃ t v, Host.Core.run core (5 + 2 * ws.length) s = .next t ∧
      Host.Core.run core (5 + ws.length + (ws.length + 15) / 16) u = .next v ∧
      t.fsm = .idle ∧ v.fsm = .idle ∧ v.bus = t.bus ∧
      t.tr.length = s.tr.length + 3 + ws.length ∧ v.tr.length = s.tr.length + 3 + (ws.length + 15) / 16 ∧
      t.bus = s.bus ++ [⟨.known .lo, s.par.opc.ramwr⟩] ++
        (ws.flatMap bigEndian).map (fun b => ⟨.known .hi, b⟩)

/-! ### The host interface -/

/-- 20_memory R61: what the host reads at each address; the reply is the value before the step, and a read changes
nothing else. -/
def Obligations.RegisterReadsFollowTheMap : Prop :=
  ∀ (s : State) (a : RegAddr) (more : List HostAction), s.host = .regRead a :: more →
    ∃ v, Machine.step s = .next { s with host := more, rdata := some v } ∧
      (a = 0 → v = s.arg.a0) ∧ (a = 1 → v = s.arg.a1) ∧ (a = 2 → v = s.arg.a2) ∧ (a = 3 → v = s.arg.a3) ∧
      (a = 4 → v.getLsbD 0 = decide (s.fsm ≠ .idle) ∧ v.getLsbD 1 = s.err ∧ v.getLsbD 2 = s.ill ∧
        v.toNat < 8) ∧
      (a = 5 → v = s.dx) ∧ (a = 6 → v = s.dy) ∧
      (a = 7 → v.getLsbD 0 = s.cfg.rgb ∧ v.getLsbD 1 = s.cfg.inverted ∧ v.toNat < 4) ∧
      (a = 8 → v = s.cfg.width) ∧ (a = 9 → v = s.cfg.height) ∧ (9 < a → v = 0)

/-- 20_memory R61: a write changes the one operand register it names; a write to a read-only register or to an unmapped
address has no effect. -/
def Obligations.RegisterWritesReachOnlyTheOperands : Prop :=
  ∀ (s : State) (a : RegAddr) (v : Word) (more : List HostAction), s.host = .regWrite a v :: more →
    Machine.step s = .next { s with host := more, arg :=
      ⟨if a = 0 then v else s.arg.a0, if a = 1 then v else s.arg.a1,
       if a = 2 then v else s.arg.a2, if a = 3 then v else s.arg.a3⟩ }

/-- 70_reset R231: a block reset in the middle of an operation abandons it: the state of R230's table, the trace empty,
no further event. What lies outside the block stays (the model's reading, log 19). -/
def Obligations.ResetAbandonsTheOperation : Prop :=
  ∀ (s : State) (more : List HostAction), s.host = .blockReset :: more →
    ∃ t, Machine.step s = .next t ∧ t.cfg = s.cfg ∧ t.par = s.par ∧ t.dx = 0 ∧ t.dy = 0 ∧
      t.arg = ⟨0, 0, 0, 0⟩ ∧ t.statusWord = 0 ∧ t.fsm = .idle ∧ t.pc = 0 ∧ t.idx = 0 ∧
      t.dcQ = s.par.dcInit ∧ t.rstQ = s.par.rstInit ∧ t.tr = [] ∧
      t.cmdPort = s.cmdPort ∧ t.pix = s.pix ∧ t.host = more ∧ t.env = s.env

/-- 30_encoding R82: a well-formed `FILL` is the buffered stream of as many copies of its colour as the inclusive window
has pixels. -/
def Obligations.FillIsTheBufferedStreamOfItsColour : Prop :=
  ∀ (sx sy ex ey color : Word), (AsmLine.fill sx sy ex ey color).wellFormed = true →
    ∃ ws : List Word, (AsmLine.fill sx sy ex ey color).expand = (AsmLine.spixb sx sy ex ey ws).expand ∧
      (∀ w ∈ ws, w = color) ∧
      (ws.length : Int) = ((ex.toNat : Int) - sx.toNat + 1) * ((ey.toNat : Int) - sy.toNat + 1)

/-- 70_reset R240: a program of assembly lines offers pixel tokens only after a legal command word. -/
def Obligations.ProgramsOfferTokensOnlyAfterLegalWords : Prop :=
  ∀ ls : List AsmLine, tokensAfterLegal false (program ls) = true

/-- Whose turn a step is, and what the host's moves on the command port, the token port and at BUSY do (10_state R36, R37,
R39; 30_encoding R81; the schedule is the model's own form, log 16 and log 18). An offer onto a full command port waits;
so does `awaitAccept` while the word is still there, and `awaitIdle` exactly while the block is busy; a token joins the
end of the token port. While the host waits, pauses or has no move, the block moves. -/
def Obligations.HostMovesAndWaits : Prop :=
  ∀ (s : State) (more : List HostAction),
    (s.host = [] → Machine.step s = blockStep s) ∧
    (s.host = .pause :: more → Machine.step s = blockStep { s with host := more }) ∧
    (∀ w, s.host = .offerCommand w :: more → Machine.step s =
      if s.cmdPort = none then .next { s with host := more, cmdPort := some w } else blockStep s) ∧
    (s.host = .awaitAccept :: more → Machine.step s =
      if s.cmdPort = none then .next { s with host := more } else blockStep s) ∧
    (∀ k, s.host = .offerToken k :: more → Machine.step s = .next { s with host := more, pix := s.pix ++ [k] }) ∧
    (s.host = .awaitIdle :: more → Machine.step s =
      if s.fsm = .idle then .next { s with host := more } else blockStep s)

/-- The turns by cases: the block is handed the state as it stands, or with a pause taken off the schedule; and a step
that is the host's own leaves the sequencer, the latch, the lines and `BUF` alone but for a block reset (10_state R36,
R25; log 18). -/
def Obligations.HostTurnsTouchOnlyThePorts : Prop :=
  ∀ s u : State,
    (hostTurn s = .block u → Machine.step s = blockStep u ∧ (u = s ∨ u = { s with host := s.host.tail })) ∧
    (hostTurn s = .host u → s.host.head? ≠ some .blockReset →
      Machine.step s = .next u ∧
        u = { s with arg := u.arg, cmdPort := u.cmdPort, pix := u.pix, rdata := u.rdata, host := s.host.tail })

/-- 70_reset R230: an idle block with nothing offered waits; its step answers the same state (log 17, DEDUCED). -/
def Obligations.IdleBlockWaitsForACommand : Prop :=
  ∀ s u : State, hostTurn s = .block u → u.fsm = .idle → u.framePort = none → u.cmdPort = none →
    Machine.step s = .next u

/-- One step of a drain, whatever stands on the token port or follows (60_exceptions R202, 10_state R39): without a token
the block waits (log 17); a word is discarded and the drain goes on; `END` is taken and the block is idle. No event, no
draw; that `PC` stays is the model's reading (log 12, DEDUCED). -/
def Obligations.DrainStepTakesAtMostOneToken : Prop :=
  ∀ s u : State, hostTurn s = .block u → u.fsm = .drain →
    (u.pix = [] → Machine.step s = .next u) ∧
    (∀ w rest, u.pix = .word w :: rest → Machine.step s = .next { u with pix := rest }) ∧
    (∀ rest, u.pix = .last :: rest →
      Machine.step s = .next { u with pix := rest, fsm := .idle, pos := .script })
end

