-- ==== Sys2Proof/Laws/Decode.lean ====
section
/-! SUPPORT. Fields of a command word, the catalog's look-up, and the two formats of an encoding. -/

namespace Sys2Proof

/-- The reserved field is zero exactly in the words below 64 (30_encoding R70). -/
theorem rsvField_eq_zero_iff {w : Word} : rsvField w = 0 ↔ w.toNat < 64 := by
  have hw := w.isLt
  constructor
  · intro h
    have := congrArg BitVec.toNat h
    simp [rsvField, BitVec.extractLsb'_toNat, Nat.shiftRight_eq_div_pow] at this
    omega
  · intro h
    apply BitVec.eq_of_toNat_eq
    simp [rsvField, BitVec.extractLsb'_toNat, Nat.shiftRight_eq_div_pow]
    omega

/-- A word with a reserved bit set is rejected (30_encoding R73). -/
theorem decodeCommand_of_reserved {w : Word} (h : 64 ≤ w.toNat) : decodeCommand w = .rejected .reservedBits := by
  have : rsvField w ≠ 0 := fun e => absurd (rsvField_eq_zero_iff.1 e) (by omega)
  simp only [decodeCommand, if_pos this]

theorem Command.mem_all (c : Command) : c ∈ Command.all := by cases c <;> decide

/-- A catalog with distinct values tells its names apart (30_encoding R78). -/
theorem OpcTable.Distinct.injective {t : OpcTable} (h : t.Distinct) {a b : Command}
    (e : t.opcode a = t.opcode b) : a = b :=
  List.inj_on_of_nodup_map h a.mem_all b.mem_all e

/-- Looking up a name's opcode gives the name's instruction. -/
theorem decodeOpcode_opcode {t : OpcTable} (h : t.Distinct) (c : Command) :
    decodeOpcode t (t.opcode c) = .instr c.instr := by
  unfold decodeOpcode
  cases hf : Command.all.find? (fun d => t.opcode d == t.opcode c) with
  | none =>
    have := List.find?_eq_none.1 hf c c.mem_all
    simp at this
  | some d =>
    have := List.find?_some hf
    simp only [beq_iff_eq] at this
    rw [h.injective this]

/-- What a look-up finds has that opcode. -/
theorem decodeOpcode_eq_instr {t : OpcTable} {b : Byte} {i : Instr} (h : decodeOpcode t b = .instr i) :
    ∃ c, i = c.instr ∧ t.opcode c = b := by
  unfold decodeOpcode at h
  split at h
  · rename_i c hc
    have := List.find?_some hc
    simp only [beq_iff_eq] at this
    injection h with h
    exact ⟨c, h.symm, this⟩
  · cases h

@[simp] theorem encode_command_instr (t : OpcTable) (c : Command) :
    encode t c.instr = .opcode (t.opcode c) := by cases c <;> rfl

/-- The mode field's bits and the mode are each other's (30_encoding R72). -/
@[simp] theorem Mode.ofBits_bits (m : Mode) : Mode.ofBits m.bits = m := by cases m <;> rfl

end Sys2Proof
end

