-- ==== Sys2Proof/Laws/Memory.lean ====
section
/-! SUPPORT. The pixel FIFO buffer: reading after writing, the canonical form, and what a word's append and a flush's
read give. -/

namespace Sys2Proof.Machine.Memory

theorem get_put_same (m : Memory) (a : Nat) (v : Byte) : (m.put a v).get a = some v := by
  induction m with
  | nil => simp [put, get]
  | cons c m ih =>
    obtain ⟨b, u⟩ := c
    simp only [put]
    split
    · simp [get]
    · split
      · simp [get]
      · rename_i h1 h2
        simp [get, h2, ih]

theorem get_put_other (m : Memory) {a b : Nat} (v : Byte) (h : a ≠ b) : (m.put b v).get a = m.get a := by
  induction m with
  | nil => simp [put, get, h]
  | cons c m ih =>
    obtain ⟨k, u⟩ := c
    simp only [put]
    split
    · simp [get, h]
    · split
      · rename_i h1 h2
        subst h2
        simp [get, h]
      · simp only [get, ih]

/-- The addresses after a byte is set: those before it and the one set. -/
theorem fst_of_mem_put {m : Memory} {a : Nat} {v : Byte} {c : Host.Cell} (h : c ∈ m.put a v) :
    c.1 = a ∨ c ∈ m := by
  induction m with
  | nil => simp [put] at h; simp [h]
  | cons d m ih =>
    obtain ⟨b, u⟩ := d
    simp only [put] at h
    split at h
    · simp only [List.mem_cons] at h ⊢
      rcases h with rfl | h
      · exact .inl rfl
      · exact .inr h
    · split at h
      · simp only [List.mem_cons] at h ⊢
        rcases h with rfl | h
        · exact .inl rfl
        · exact .inr (.inr h)
      · simp only [List.mem_cons] at h ⊢
        rcases h with rfl | h
        · exact .inr (.inl rfl)
        · rcases ih h with h | h
          · exact .inl h
          · exact .inr (.inr h)

/-- Setting a byte keeps the canonical form. -/
theorem put_wf {m : Memory} {a : Nat} {v : Byte} (h : m.wf) (ha : a < fifoBytes) : (m.put a v).wf := by
  refine ⟨?_, fun c hc => ?_⟩
  · have hp := h.1
    clear h
    induction m with
    | nil => simp [put]
    | cons d m ih =>
      obtain ⟨b, u⟩ := d
      simp only [List.map_cons, List.pairwise_cons, List.mem_map, forall_exists_index, and_imp,
        forall_apply_eq_imp_iff₂] at hp
      simp only [put]
      split
      · rename_i hab
        simp only [List.map_cons, List.pairwise_cons, List.mem_cons, List.mem_map]
        refine ⟨?_, ?_, hp.2⟩
        · rintro x (rfl | ⟨c, hc, rfl⟩)
          · exact hab
          · exact hab.trans (hp.1 c hc)
        · rintro x ⟨c, hc, rfl⟩
          exact hp.1 c hc
      · split
        · rename_i hab
          subst hab
          simp only [List.map_cons, List.pairwise_cons, List.mem_map]
          exact ⟨by rintro x ⟨c, hc, rfl⟩; exact hp.1 c hc, hp.2⟩
        · rename_i h1 h2
          simp only [List.map_cons, List.pairwise_cons, List.mem_map]
          refine ⟨?_, ih hp.2⟩
          rintro x ⟨c, hc, rfl⟩
          rcases fst_of_mem_put hc with h | h
          · omega
          · exact hp.1 c h
  · rcases fst_of_mem_put hc with h' | h'
    · exact h' ▸ ha
    · exact h.2 c h'

/-- What the append of a word answers: it is none exactly where the buffer has no such index. -/
theorem putWord_isSome {m : Memory} {a : Nat} {w : Word} (h : a + 1 < fifoBytes) :
    m.putWord a w = some ((m.put a (w.extractLsb' 8 8)).put (a + 1) (w.extractLsb' 0 8)) := by
  simp [putWord, h]

/-- The append of a word, said once: the canonical form kept, the two bytes set, every other byte as before. -/
theorem putWord_spec {m m' : Memory} {a : Nat} {w : Word} (hm : m.wf) (h : m.putWord a w = some m') :
    m'.wf ∧ m'.get a = some (w.extractLsb' 8 8) ∧ m'.get (a + 1) = some (w.extractLsb' 0 8) ∧
      ∀ b, b ≠ a → b ≠ a + 1 → m'.get b = m.get b := by
  simp only [putWord] at h
  split at h
  · rename_i ha
    injection h with h
    subst h
    refine ⟨put_wf (put_wf hm (by omega)) ha, ?_, get_put_same _ _ _, fun b h1 h2 => ?_⟩
    · rw [get_put_other _ _ (by omega), get_put_same]
    · rw [get_put_other _ _ h2, get_put_other _ _ h1]
  · simp at h

/-- Appending at the end of what is written extends it by a word. -/
theorem Written.putWord {m m' : Memory} {n : Nat} {w : Word} (hm : m.wf) (hw : m.Written n)
    (h : m.putWord n w = some m') : m'.Written (n + 2) := by
  intro a ha
  obtain ⟨-, h0, h1, h2⟩ := putWord_spec hm h
  by_cases e0 : a = n
  · exact ⟨_, e0 ▸ h0⟩
  · by_cases e1 : a = n + 1
    · exact ⟨_, e1 ▸ h1⟩
    · rw [h2 a e0 e1]
      exact hw a (by omega)

/-- A read of written bytes gives them, in order. -/
theorem read_of_written (m : Memory) (a n : Nat) (h : ∀ b, a ≤ b → b < a + n → ∃ v, m.get b = some v) :
    ∃ bs, m.read a n = some bs ∧ bs.length = n ∧ ∀ k, k < n → bs[k]? = m.get (a + k) := by
  induction n generalizing a with
  | zero => exact ⟨[], rfl, rfl, by simp⟩
  | succ n ih =>
    obtain ⟨v, hv⟩ := h a (le_refl a) (by omega)
    obtain ⟨bs, hr, hl, hk⟩ := ih (a + 1) (fun b h1 h2 => h b (by omega) (by omega))
    refine ⟨v :: bs, by simp [read, hv, hr], by simp [hl], fun k hkn => ?_⟩
    cases k with
    | zero => simp [hv]
    | succ k =>
      rw [List.getElem?_cons_succ, hk k (by omega)]
      congr 1
      omega

/-- The front of the buffer, once written, can be flushed. -/
theorem Written.read {m : Memory} {n : Nat} (h : m.Written n) :
    ∃ bs, m.read 0 n = some bs ∧ bs.length = n ∧ ∀ k, k < n → bs[k]? = m.get k := by
  obtain ⟨bs, h1, h2, h3⟩ := read_of_written m 0 n (fun b _ hb => h b (by omega))
  exact ⟨bs, h1, h2, fun k hk => by simpa using h3 k hk⟩

theorem written_zero (m : Memory) : m.Written 0 := fun a ha => absurd ha (by omega)

/-- The bytes below `n` have been written when reading each of them gives a value. -/
theorem written_of_isSome {m : Memory} {n : Nat} (h : ∀ a, a < n → (m.get a).isSome = true) : m.Written n :=
  fun a ha => Option.isSome_iff_exists.1 (h a ha)

end Sys2Proof.Machine.Memory
end

