-- ==== Sys2Proof/Laws/State.lean ====
section
/-! SUPPORT. One lemma per field of State and per named update, true by definition, so that no later proof unfolds a
record update. -/

namespace Sys2Proof.Machine

variable (s : State)

@[simp] theorem State.emit_cfg (e : Event) : (s.emit e).cfg = s.cfg := rfl
@[simp] theorem State.emit_dx (e : Event) : (s.emit e).dx = s.dx := rfl
@[simp] theorem State.emit_dy (e : Event) : (s.emit e).dy = s.dy := rfl
@[simp] theorem State.emit_arg (e : Event) : (s.emit e).arg = s.arg := rfl
@[simp] theorem State.emit_opl (e : Event) : (s.emit e).opl = s.opl := rfl
@[simp] theorem State.emit_err (e : Event) : (s.emit e).err = s.err := rfl
@[simp] theorem State.emit_ill (e : Event) : (s.emit e).ill = s.ill := rfl
@[simp] theorem State.emit_fsm (e : Event) : (s.emit e).fsm = s.fsm := rfl
@[simp] theorem State.emit_pc (e : Event) : (s.emit e).pc = s.pc := rfl
@[simp] theorem State.emit_buf (e : Event) : (s.emit e).buf = s.buf := rfl
@[simp] theorem State.emit_idx (e : Event) : (s.emit e).idx = s.idx := rfl
@[simp] theorem State.emit_dcQ (e : Event) : (s.emit e).dcQ = s.dcQ := rfl
@[simp] theorem State.emit_rstQ (e : Event) : (s.emit e).rstQ = s.rstQ := rfl
@[simp] theorem State.emit_tr (e : Event) : (s.emit e).tr = s.tr ++ [e] := rfl
@[simp] theorem State.emit_par (e : Event) : (s.emit e).par = s.par := rfl
@[simp] theorem State.emit_pos (e : Event) : (s.emit e).pos = s.pos := rfl
@[simp] theorem State.emit_bus (e : Event) : (s.emit e).bus = s.bus := rfl
@[simp] theorem State.emit_cmdPort (e : Event) : (s.emit e).cmdPort = s.cmdPort := rfl
@[simp] theorem State.emit_pix (e : Event) : (s.emit e).pix = s.pix := rfl
@[simp] theorem State.emit_rdata (e : Event) : (s.emit e).rdata = s.rdata := rfl
@[simp] theorem State.emit_framePort (e : Event) : (s.emit e).framePort = s.framePort := rfl
@[simp] theorem State.emit_host (e : Event) : (s.emit e).host = s.host := rfl
@[simp] theorem State.emit_env (e : Event) : (s.emit e).env = s.env := rfl
@[simp] theorem State.emit_draws (e : Event) : (s.emit e).draws = s.draws := rfl

@[simp] theorem State.takeAnswer_cfg : (s.takeAnswer).cfg = s.cfg := rfl
@[simp] theorem State.takeAnswer_dx : (s.takeAnswer).dx = s.dx := rfl
@[simp] theorem State.takeAnswer_dy : (s.takeAnswer).dy = s.dy := rfl
@[simp] theorem State.takeAnswer_arg : (s.takeAnswer).arg = s.arg := rfl
@[simp] theorem State.takeAnswer_opl : (s.takeAnswer).opl = s.opl := rfl
@[simp] theorem State.takeAnswer_err : (s.takeAnswer).err = s.err := rfl
@[simp] theorem State.takeAnswer_ill : (s.takeAnswer).ill = s.ill := rfl
@[simp] theorem State.takeAnswer_fsm : (s.takeAnswer).fsm = s.fsm := rfl
@[simp] theorem State.takeAnswer_pc : (s.takeAnswer).pc = s.pc := rfl
@[simp] theorem State.takeAnswer_buf : (s.takeAnswer).buf = s.buf := rfl
@[simp] theorem State.takeAnswer_idx : (s.takeAnswer).idx = s.idx := rfl
@[simp] theorem State.takeAnswer_dcQ : (s.takeAnswer).dcQ = s.dcQ := rfl
@[simp] theorem State.takeAnswer_rstQ : (s.takeAnswer).rstQ = s.rstQ := rfl
@[simp] theorem State.takeAnswer_tr : (s.takeAnswer).tr = s.tr := rfl
@[simp] theorem State.takeAnswer_par : (s.takeAnswer).par = s.par := rfl
@[simp] theorem State.takeAnswer_pos : (s.takeAnswer).pos = s.pos := rfl
@[simp] theorem State.takeAnswer_bus : (s.takeAnswer).bus = s.bus := rfl
@[simp] theorem State.takeAnswer_cmdPort : (s.takeAnswer).cmdPort = s.cmdPort := rfl
@[simp] theorem State.takeAnswer_pix : (s.takeAnswer).pix = s.pix := rfl
@[simp] theorem State.takeAnswer_rdata : (s.takeAnswer).rdata = s.rdata := rfl
@[simp] theorem State.takeAnswer_framePort : (s.takeAnswer).framePort = s.framePort := rfl
@[simp] theorem State.takeAnswer_host : (s.takeAnswer).host = s.host := rfl
@[simp] theorem State.takeAnswer_env : (s.takeAnswer).env = s.env.tail := rfl
@[simp] theorem State.takeAnswer_draws : (s.takeAnswer).draws = s.draws + 1 := rfl

@[simp] theorem State.deliver_cfg (bs : List Byte) : (s.deliver bs).cfg = s.cfg := rfl
@[simp] theorem State.deliver_dx (bs : List Byte) : (s.deliver bs).dx = s.dx := rfl
@[simp] theorem State.deliver_dy (bs : List Byte) : (s.deliver bs).dy = s.dy := rfl
@[simp] theorem State.deliver_arg (bs : List Byte) : (s.deliver bs).arg = s.arg := rfl
@[simp] theorem State.deliver_opl (bs : List Byte) : (s.deliver bs).opl = s.opl := rfl
@[simp] theorem State.deliver_err (bs : List Byte) : (s.deliver bs).err = s.err := rfl
@[simp] theorem State.deliver_ill (bs : List Byte) : (s.deliver bs).ill = s.ill := rfl
@[simp] theorem State.deliver_fsm (bs : List Byte) : (s.deliver bs).fsm = s.fsm := rfl
@[simp] theorem State.deliver_pc (bs : List Byte) : (s.deliver bs).pc = s.pc := rfl
@[simp] theorem State.deliver_buf (bs : List Byte) : (s.deliver bs).buf = s.buf := rfl
@[simp] theorem State.deliver_idx (bs : List Byte) : (s.deliver bs).idx = s.idx := rfl
@[simp] theorem State.deliver_dcQ (bs : List Byte) : (s.deliver bs).dcQ = s.dcQ := rfl
@[simp] theorem State.deliver_rstQ (bs : List Byte) : (s.deliver bs).rstQ = s.rstQ := rfl
@[simp] theorem State.deliver_tr (bs : List Byte) : (s.deliver bs).tr = s.tr := rfl
@[simp] theorem State.deliver_par (bs : List Byte) : (s.deliver bs).par = s.par := rfl
@[simp] theorem State.deliver_pos (bs : List Byte) : (s.deliver bs).pos = s.pos := rfl
@[simp] theorem State.deliver_bus (bs : List Byte) : (s.deliver bs).bus = s.bus ++ bs.map (BusByte.mk s.dcQ) := rfl
@[simp] theorem State.deliver_cmdPort (bs : List Byte) : (s.deliver bs).cmdPort = s.cmdPort := rfl
@[simp] theorem State.deliver_pix (bs : List Byte) : (s.deliver bs).pix = s.pix := rfl
@[simp] theorem State.deliver_rdata (bs : List Byte) : (s.deliver bs).rdata = s.rdata := rfl
@[simp] theorem State.deliver_framePort (bs : List Byte) : (s.deliver bs).framePort = s.framePort := rfl
@[simp] theorem State.deliver_host (bs : List Byte) : (s.deliver bs).host = s.host := rfl
@[simp] theorem State.deliver_env (bs : List Byte) : (s.deliver bs).env = s.env := rfl
@[simp] theorem State.deliver_draws (bs : List Byte) : (s.deliver bs).draws = s.draws := rfl

@[simp] theorem State.countAction_cfg : (s.countAction).cfg = s.cfg := rfl
@[simp] theorem State.countAction_dx : (s.countAction).dx = s.dx := rfl
@[simp] theorem State.countAction_dy : (s.countAction).dy = s.dy := rfl
@[simp] theorem State.countAction_arg : (s.countAction).arg = s.arg := rfl
@[simp] theorem State.countAction_opl : (s.countAction).opl = s.opl := rfl
@[simp] theorem State.countAction_err : (s.countAction).err = s.err := rfl
@[simp] theorem State.countAction_ill : (s.countAction).ill = s.ill := rfl
@[simp] theorem State.countAction_fsm : (s.countAction).fsm = s.fsm := rfl
@[simp] theorem State.countAction_pc : (s.countAction).pc = s.pc + 1 := rfl
@[simp] theorem State.countAction_buf : (s.countAction).buf = s.buf := rfl
@[simp] theorem State.countAction_idx : (s.countAction).idx = s.idx := rfl
@[simp] theorem State.countAction_dcQ : (s.countAction).dcQ = s.dcQ := rfl
@[simp] theorem State.countAction_rstQ : (s.countAction).rstQ = s.rstQ := rfl
@[simp] theorem State.countAction_tr : (s.countAction).tr = s.tr := rfl
@[simp] theorem State.countAction_par : (s.countAction).par = s.par := rfl
@[simp] theorem State.countAction_pos : (s.countAction).pos = s.pos := rfl
@[simp] theorem State.countAction_bus : (s.countAction).bus = s.bus := rfl
@[simp] theorem State.countAction_cmdPort : (s.countAction).cmdPort = s.cmdPort := rfl
@[simp] theorem State.countAction_pix : (s.countAction).pix = s.pix := rfl
@[simp] theorem State.countAction_rdata : (s.countAction).rdata = s.rdata := rfl
@[simp] theorem State.countAction_framePort : (s.countAction).framePort = s.framePort := rfl
@[simp] theorem State.countAction_host : (s.countAction).host = s.host := rfl
@[simp] theorem State.countAction_env : (s.countAction).env = s.env := rfl
@[simp] theorem State.countAction_draws : (s.countAction).draws = s.draws := rfl

@[simp] theorem finish_cfg : (finish s).cfg = s.cfg := rfl
@[simp] theorem finish_dx : (finish s).dx = s.dx := rfl
@[simp] theorem finish_dy : (finish s).dy = s.dy := rfl
@[simp] theorem finish_arg : (finish s).arg = s.arg := rfl
@[simp] theorem finish_opl : (finish s).opl = s.opl := rfl
@[simp] theorem finish_err : (finish s).err = s.err := rfl
@[simp] theorem finish_ill : (finish s).ill = s.ill := rfl
@[simp] theorem finish_fsm : (finish s).fsm = .idle := rfl
@[simp] theorem finish_pc : (finish s).pc = s.pc := rfl
@[simp] theorem finish_buf : (finish s).buf = s.buf := rfl
@[simp] theorem finish_idx : (finish s).idx = s.idx := rfl
@[simp] theorem finish_dcQ : (finish s).dcQ = s.dcQ := rfl
@[simp] theorem finish_rstQ : (finish s).rstQ = s.rstQ := rfl
@[simp] theorem finish_tr : (finish s).tr = s.tr := rfl
@[simp] theorem finish_par : (finish s).par = s.par := rfl
@[simp] theorem finish_pos : (finish s).pos = .script := rfl
@[simp] theorem finish_bus : (finish s).bus = s.bus := rfl
@[simp] theorem finish_cmdPort : (finish s).cmdPort = s.cmdPort := rfl
@[simp] theorem finish_pix : (finish s).pix = s.pix := rfl
@[simp] theorem finish_rdata : (finish s).rdata = s.rdata := rfl
@[simp] theorem finish_framePort : (finish s).framePort = s.framePort := rfl
@[simp] theorem finish_host : (finish s).host = s.host := rfl
@[simp] theorem finish_env : (finish s).env = s.env := rfl
@[simp] theorem finish_draws : (finish s).draws = s.draws := rfl

@[simp] theorem State.clearStatus_cfg : (s.clearStatus).cfg = s.cfg := rfl
@[simp] theorem State.clearStatus_dx : (s.clearStatus).dx = s.dx := rfl
@[simp] theorem State.clearStatus_dy : (s.clearStatus).dy = s.dy := rfl
@[simp] theorem State.clearStatus_arg : (s.clearStatus).arg = s.arg := rfl
@[simp] theorem State.clearStatus_opl : (s.clearStatus).opl = s.opl := rfl
@[simp] theorem State.clearStatus_err : (s.clearStatus).err = false := rfl
@[simp] theorem State.clearStatus_ill : (s.clearStatus).ill = false := rfl
@[simp] theorem State.clearStatus_fsm : (s.clearStatus).fsm = s.fsm := rfl
@[simp] theorem State.clearStatus_pc : (s.clearStatus).pc = s.pc := rfl
@[simp] theorem State.clearStatus_buf : (s.clearStatus).buf = s.buf := rfl
@[simp] theorem State.clearStatus_idx : (s.clearStatus).idx = s.idx := rfl
@[simp] theorem State.clearStatus_dcQ : (s.clearStatus).dcQ = s.dcQ := rfl
@[simp] theorem State.clearStatus_rstQ : (s.clearStatus).rstQ = s.rstQ := rfl
@[simp] theorem State.clearStatus_tr : (s.clearStatus).tr = s.tr := rfl
@[simp] theorem State.clearStatus_par : (s.clearStatus).par = s.par := rfl
@[simp] theorem State.clearStatus_pos : (s.clearStatus).pos = s.pos := rfl
@[simp] theorem State.clearStatus_bus : (s.clearStatus).bus = s.bus := rfl
@[simp] theorem State.clearStatus_cmdPort : (s.clearStatus).cmdPort = s.cmdPort := rfl
@[simp] theorem State.clearStatus_pix : (s.clearStatus).pix = s.pix := rfl
@[simp] theorem State.clearStatus_rdata : (s.clearStatus).rdata = s.rdata := rfl
@[simp] theorem State.clearStatus_framePort : (s.clearStatus).framePort = s.framePort := rfl
@[simp] theorem State.clearStatus_host : (s.clearStatus).host = s.host := rfl
@[simp] theorem State.clearStatus_env : (s.clearStatus).env = s.env := rfl
@[simp] theorem State.clearStatus_draws : (s.clearStatus).draws = s.draws := rfl

@[simp] theorem State.latchOperands_cfg : (s.latchOperands).cfg = s.cfg := rfl
@[simp] theorem State.latchOperands_dx : (s.latchOperands).dx = s.dx := rfl
@[simp] theorem State.latchOperands_dy : (s.latchOperands).dy = s.dy := rfl
@[simp] theorem State.latchOperands_arg : (s.latchOperands).arg = s.arg := rfl
@[simp] theorem State.latchOperands_opl : (s.latchOperands).opl = ⟨s.opl.cmd, s.arg, s.dx, s.dy⟩ := rfl
@[simp] theorem State.latchOperands_err : (s.latchOperands).err = s.err := rfl
@[simp] theorem State.latchOperands_ill : (s.latchOperands).ill = s.ill := rfl
@[simp] theorem State.latchOperands_fsm : (s.latchOperands).fsm = s.fsm := rfl
@[simp] theorem State.latchOperands_pc : (s.latchOperands).pc = s.pc := rfl
@[simp] theorem State.latchOperands_buf : (s.latchOperands).buf = s.buf := rfl
@[simp] theorem State.latchOperands_idx : (s.latchOperands).idx = s.idx := rfl
@[simp] theorem State.latchOperands_dcQ : (s.latchOperands).dcQ = s.dcQ := rfl
@[simp] theorem State.latchOperands_rstQ : (s.latchOperands).rstQ = s.rstQ := rfl
@[simp] theorem State.latchOperands_tr : (s.latchOperands).tr = s.tr := rfl
@[simp] theorem State.latchOperands_par : (s.latchOperands).par = s.par := rfl
@[simp] theorem State.latchOperands_pos : (s.latchOperands).pos = s.pos := rfl
@[simp] theorem State.latchOperands_bus : (s.latchOperands).bus = s.bus := rfl
@[simp] theorem State.latchOperands_cmdPort : (s.latchOperands).cmdPort = s.cmdPort := rfl
@[simp] theorem State.latchOperands_pix : (s.latchOperands).pix = s.pix := rfl
@[simp] theorem State.latchOperands_rdata : (s.latchOperands).rdata = s.rdata := rfl
@[simp] theorem State.latchOperands_framePort : (s.latchOperands).framePort = s.framePort := rfl
@[simp] theorem State.latchOperands_host : (s.latchOperands).host = s.host := rfl
@[simp] theorem State.latchOperands_env : (s.latchOperands).env = s.env := rfl
@[simp] theorem State.latchOperands_draws : (s.latchOperands).draws = s.draws := rfl

@[simp] theorem State.setLine_cfg (l : Line) (v : LineLevel) : (s.setLine l v).cfg = s.cfg := by cases l <;> rfl
@[simp] theorem State.setLine_dx (l : Line) (v : LineLevel) : (s.setLine l v).dx = s.dx := by cases l <;> rfl
@[simp] theorem State.setLine_dy (l : Line) (v : LineLevel) : (s.setLine l v).dy = s.dy := by cases l <;> rfl
@[simp] theorem State.setLine_arg (l : Line) (v : LineLevel) : (s.setLine l v).arg = s.arg := by cases l <;> rfl
@[simp] theorem State.setLine_opl (l : Line) (v : LineLevel) : (s.setLine l v).opl = s.opl := by cases l <;> rfl
@[simp] theorem State.setLine_err (l : Line) (v : LineLevel) : (s.setLine l v).err = s.err := by cases l <;> rfl
@[simp] theorem State.setLine_ill (l : Line) (v : LineLevel) : (s.setLine l v).ill = s.ill := by cases l <;> rfl
@[simp] theorem State.setLine_fsm (l : Line) (v : LineLevel) : (s.setLine l v).fsm = s.fsm := by cases l <;> rfl
@[simp] theorem State.setLine_pc (l : Line) (v : LineLevel) : (s.setLine l v).pc = s.pc := by cases l <;> rfl
@[simp] theorem State.setLine_buf (l : Line) (v : LineLevel) : (s.setLine l v).buf = s.buf := by cases l <;> rfl
@[simp] theorem State.setLine_idx (l : Line) (v : LineLevel) : (s.setLine l v).idx = s.idx := by cases l <;> rfl
@[simp] theorem State.setLine_tr (l : Line) (v : LineLevel) : (s.setLine l v).tr = s.tr := by cases l <;> rfl
@[simp] theorem State.setLine_par (l : Line) (v : LineLevel) : (s.setLine l v).par = s.par := by cases l <;> rfl
@[simp] theorem State.setLine_pos (l : Line) (v : LineLevel) : (s.setLine l v).pos = s.pos := by cases l <;> rfl
@[simp] theorem State.setLine_bus (l : Line) (v : LineLevel) : (s.setLine l v).bus = s.bus := by cases l <;> rfl
@[simp] theorem State.setLine_cmdPort (l : Line) (v : LineLevel) : (s.setLine l v).cmdPort = s.cmdPort := by cases l <;> rfl
@[simp] theorem State.setLine_pix (l : Line) (v : LineLevel) : (s.setLine l v).pix = s.pix := by cases l <;> rfl
@[simp] theorem State.setLine_rdata (l : Line) (v : LineLevel) : (s.setLine l v).rdata = s.rdata := by cases l <;> rfl
@[simp] theorem State.setLine_framePort (l : Line) (v : LineLevel) : (s.setLine l v).framePort = s.framePort := by cases l <;> rfl
@[simp] theorem State.setLine_host (l : Line) (v : LineLevel) : (s.setLine l v).host = s.host := by cases l <;> rfl
@[simp] theorem State.setLine_env (l : Line) (v : LineLevel) : (s.setLine l v).env = s.env := by cases l <;> rfl
@[simp] theorem State.setLine_draws (l : Line) (v : LineLevel) : (s.setLine l v).draws = s.draws := by cases l <;> rfl
@[simp] theorem State.setLine_dc_dcQ (v : LineLevel) : (s.setLine .dc v).dcQ = v := rfl
@[simp] theorem State.setLine_dc_rstQ (v : LineLevel) : (s.setLine .dc v).rstQ = s.rstQ := rfl
@[simp] theorem State.setLine_rst_dcQ (v : LineLevel) : (s.setLine .rst v).dcQ = s.dcQ := rfl
@[simp] theorem State.setLine_rst_rstQ (v : LineLevel) : (s.setLine .rst v).rstQ = v := rfl

/-! ### Reset -/

variable (cfg : Straps) (par : Params)

@[simp] theorem State.resetWith_cfg : (State.resetWith cfg par).cfg = cfg := rfl
@[simp] theorem State.resetWith_dx : (State.resetWith cfg par).dx = 0 := rfl
@[simp] theorem State.resetWith_dy : (State.resetWith cfg par).dy = 0 := rfl
@[simp] theorem State.resetWith_arg : (State.resetWith cfg par).arg = Operands.all 0 := rfl
@[simp] theorem State.resetWith_err : (State.resetWith cfg par).err = false := rfl
@[simp] theorem State.resetWith_ill : (State.resetWith cfg par).ill = false := rfl
@[simp] theorem State.resetWith_fsm : (State.resetWith cfg par).fsm = .idle := rfl
@[simp] theorem State.resetWith_pc : (State.resetWith cfg par).pc = 0 := rfl
@[simp] theorem State.resetWith_buf : (State.resetWith cfg par).buf = [] := rfl
@[simp] theorem State.resetWith_idx : (State.resetWith cfg par).idx = 0 := rfl
@[simp] theorem State.resetWith_dcQ : (State.resetWith cfg par).dcQ = par.dcInit := rfl
@[simp] theorem State.resetWith_rstQ : (State.resetWith cfg par).rstQ = par.rstInit := rfl
@[simp] theorem State.resetWith_tr : (State.resetWith cfg par).tr = [] := rfl
@[simp] theorem State.resetWith_par : (State.resetWith cfg par).par = par := rfl
@[simp] theorem State.resetWith_pos : (State.resetWith cfg par).pos = .script := rfl
@[simp] theorem State.resetWith_bus : (State.resetWith cfg par).bus = [] := rfl
@[simp] theorem State.resetWith_cmdPort : (State.resetWith cfg par).cmdPort = none := rfl
@[simp] theorem State.resetWith_pix : (State.resetWith cfg par).pix = [] := rfl
@[simp] theorem State.resetWith_framePort : (State.resetWith cfg par).framePort = none := rfl
@[simp] theorem State.resetWith_host : (State.resetWith cfg par).host = [] := rfl
@[simp] theorem State.resetWith_env : (State.resetWith cfg par).env = [] := rfl

end Sys2Proof.Machine
end

