-- ==== Sys2Proof/Laws/Ops.lean ====
section
/-! SUPPORT. The shared operations, each said once: what a primitive action answers and leaves alone, what a step of a
script, a token loop and a flush can do, and which script and loop each instruction runs. -/

namespace Sys2Proof.Machine

/-! ### Primitive actions -/

/-- The event of an action answered OK. -/
def Action.okEvent : Action → Event
  | .drive l v => .pin l v .ok
  | .xfer bs => .wr bs .ok
  | .delay ms => .dly ms

@[simp] theorem perform_drive_ok {s : State} {l : Line} {v : Level} (h : s.nextAnswer = .ok) :
    perform (.drive l v) s = ((s.takeAnswer.emit (.pin l v .ok)).setLine l (.known v), true) := by
  simp [perform, h]

@[simp] theorem perform_drive_fail {s : State} {l : Line} {v : Level} {k : Nat}
    (h : s.nextAnswer = .fail k) :
    perform (.drive l v) s = ((s.takeAnswer.emit (.pin l v .fail)).setLine l .unknown, false) := by
  simp [perform, h]

theorem perform_xfer_ok {s : State} {bs : List Byte} (hb : bs ≠ []) (h : s.nextAnswer = .ok) :
    perform (.xfer bs) s = ((s.takeAnswer.emit (.wr bs .ok)).deliver bs, true) := by
  cases bs with
  | nil => exact absurd rfl hb
  | cons b bs => simp [perform, h]

theorem perform_xfer_fail {s : State} {bs : List Byte} {k : Nat} (hb : bs ≠ [])
    (h : s.nextAnswer = .fail k) :
    perform (.xfer bs) s = ((s.takeAnswer.emit (.wr bs .fail)).deliver (bs.take k), false) := by
  cases bs with
  | nil => exact absurd rfl hb
  | cons b bs => simp [perform, h]

@[simp] theorem perform_xfer_nil (s : State) : perform (.xfer []) s = (s, true) := rfl

@[simp] theorem perform_delay (s : State) (ms : Byte) :
    perform (.delay ms) s = (s.emit (.dly ms), true) := rfl

/-- An action writes the lines, the trace, the bus and the environment's answers, and nothing else. -/
theorem perform_frame (a : Action) (s : State) :
    (perform a s).1 =
      { s with dcQ := (perform a s).1.dcQ, rstQ := (perform a s).1.rstQ, tr := (perform a s).1.tr,
               bus := (perform a s).1.bus, env := (perform a s).1.env,
               draws := (perform a s).1.draws } := by
  cases a with
  | drive l v =>
    cases h : s.nextAnswer <;> cases l <;> simp only [perform, h] <;> rfl
  | xfer bs =>
    cases bs with
    | nil => rfl
    | cons b bs => cases h : s.nextAnswer <;> simp only [perform, h] <;> rfl
  | delay ms => rfl

/-- An action adds its own event to the trace, or (a zero-length write) none. -/
theorem perform_tr (a : Action) (s : State) :
    (perform a s).1.tr = s.tr ∨ ∃ e, (perform a s).1.tr = s.tr ++ [e] := by
  cases a with
  | drive l v =>
    cases h : s.nextAnswer <;> simp [perform, h]
  | xfer bs =>
    cases bs with
    | nil => exact .inl rfl
    | cons b bs => cases h : s.nextAnswer <;> simp [perform, h]
  | delay ms => exact .inr ⟨_, rfl⟩

/-- Only a drive of the reset line writes `RST_Q`. -/
theorem perform_rstQ {a : Action} (s : State) (h : ∀ v, a ≠ .drive .rst v) :
    (perform a s).1.rstQ = s.rstQ := by
  cases a with
  | drive l v =>
    cases l with
    | dc => cases hn : s.nextAnswer <;> simp [perform, hn]
    | rst => exact absurd rfl (h v)
  | xfer bs =>
    cases bs with
    | nil => rfl
    | cons b bs => cases hn : s.nextAnswer <;> simp [perform, hn]
  | delay ms => rfl

/-! ### Scripts -/

/-- The straight-line actions of an instruction. -/
def instrScript (i : Instr) (s : State) : List Action :=
  match i with
  | .init => initScript s
  | .orient m => orientScript m s
  | .offset => []
  | .window => windowScript s
  | .pixel => pixelScript s
  | .wpix => ramwrScript s
  | .wpixb => ramwrScript s
  | .spix => windowedScript s
  | .spixb => windowedScript s
  | .swreset => swresetScript s
  | .slpout => slpoutScript s
  | .frmctr1 => frmctr1Script s
  | .frmctr2 => frmctr2Script s
  | .frmctr3 => frmctr3Script s
  | .invctr => invctrScript s
  | .pwctr1 => pwctr1Script s
  | .pwctr2 => pwctr2Script s
  | .pwctr3 => pwctr3Script s
  | .pwctr4 => pwctr4Script s
  | .pwctr5 => pwctr5Script s
  | .vmctr1 => vmctr1Script s
  | .invoff => invoffScript s
  | .invon => invonScript s
  | .madctl => madctlScript s
  | .colmod => colmodScript s
  | .dispon => disponScript s
  | .caset => casetScript s
  | .raset => rasetScript s
  | .ramwr => ramwrScript s

@[simp] theorem Command.instr_op (c : Command) : c.instr.op = .frame c := by cases c <;> rfl

/-- Decoding a frame's instruction or an operation's gives that operation. -/
@[simp] theorem Op.instr_op (op : Op) (m : Mode) : (op.instr m).op = op := by
  cases op <;> first | rfl | exact Command.instr_op _

theorem instrScript_instr (op : Op) (s : State) :
    instrScript (op.instr s.latchedMode) s = opScript op s := by
  cases op with
  | frame c => cases c <;> rfl
  | _ => rfl

/-- A script depends on the straps, the parameters and the latch alone (10_state R26). -/
theorem instrScript_congr {s t : State} (i : Instr) (hc : t.cfg = s.cfg) (hp : t.par = s.par)
    (ho : t.opl = s.opl) : instrScript i t = instrScript i s := by
  have frames : ∀ a b, columnFrame t a b = columnFrame s a b ∧ rowFrame t a b = rowFrame s a b := by
    intro a b
    simp [columnFrame, rowFrame, State.column, State.row, hp, ho]
  cases i <;>
    simp [instrScript, initScript, inversionScript, swresetScript, slpoutScript, frmctr1Script,
      frmctr2Script, frmctr3Script, invctrScript, pwctr1Script, pwctr2Script, pwctr3Script,
      pwctr4Script, pwctr5Script, vmctr1Script, invoffScript, invonScript, madctlScript,
      colmodScript, disponScript, orientScript, windowScript, setWindow, casetScript, rasetScript,
      ramwrScript, pixelScript, windowedScript, frames, hc, hp, ho]

theorem opScript_congr {s t : State} (op : Op) (hc : t.cfg = s.cfg) (hp : t.par = s.par)
    (ho : t.opl = s.opl) : opScript op t = opScript op s := by
  have hm : t.latchedMode = s.latchedMode := by simp [State.latchedMode, ho]
  rw [← instrScript_instr, ← instrScript_instr, hm]
  exact instrScript_congr _ hc hp ho

/-- A script step at an action that completes. -/
theorem scriptStep_ok {script : List Action} {tail : Tail} {s t : State} {a : Action}
    (ha : script[s.pc]? = some a) (hp : perform a s = (t, true)) :
    scriptStep script tail s =
      if s.pc + 1 < script.length then t.countAction else endScript tail t.countAction := by
  have hpc : t.pc = s.pc := by
    have h := congrArg State.pc (perform_frame a s)
    rw [hp] at h
    exact h
  simp [scriptStep, ha, hp, hpc]

/-- A script step at an action that fails. -/
theorem scriptStep_fail {script : List Action} {tail : Tail} {s t : State} {a : Action}
    (ha : script[s.pc]? = some a) (hp : perform a s = (t, false)) :
    scriptStep script tail s = busError (tail ≠ .ends) t := by
  simp [scriptStep, ha, hp]

/-- A script step past the script's end. -/
theorem scriptStep_past {script : List Action} {tail : Tail} {s : State} (ha : script[s.pc]? = none) :
    scriptStep script tail s = endScript tail s := by
  simp [scriptStep, ha]

/-! ### A running operation, by its position -/

theorem runStep_script {script : List Action} {tail : Tail} {s : State} (h : s.pos = .script) :
    runStep script tail s = .next (scriptStep script tail s) := by simp only [runStep, h]

theorem runStep_words {script : List Action} {s : State} (h : s.pos = .token) :
    runStep script .words s = .next (wordsToken s) := by simp only [runStep, h]

theorem runStep_fifo {script : List Action} {s : State} (h : s.pos = .token) :
    runStep script .fifo s = fifoToken s := by simp only [runStep, h]

theorem runStep_write {script : List Action} {tail : Tail} {s : State} {w : Word} (h : s.pos = .write w) :
    runStep script tail s = .next (writeStep w s) := by simp only [runStep, h]

theorem runStep_flush {script : List Action} {tail : Tail} {s : State} {last : Bool}
    (h : s.pos = .flush last) : runStep script tail s = flushStep last s := by simp only [runStep, h]

/-! ### Which step an instruction takes -/

/-- The state in which an instruction has started: acceptance (10_state R38), or the start of a frame (log 9). -/
def startOf (i : Instr) : State → State :=
  match i with
  | .init => accept 0x0001 .init
  | .orient m => accept (Op.word .orient m) .orient
  | .offset => accept 0x0003 .offset
  | .window => accept 0x0004 .window
  | .pixel => accept 0x0005 .pixel
  | .wpix => accept 0x0006 .wpix
  | .wpixb => accept 0x0007 .wpixb
  | .spix => accept 0x0008 .spix
  | .spixb => accept 0x0009 .spixb
  | .swreset => startFrame .swreset
  | .slpout => startFrame .slpout
  | .frmctr1 => startFrame .frmctr1
  | .frmctr2 => startFrame .frmctr2
  | .frmctr3 => startFrame .frmctr3
  | .invctr => startFrame .invctr
  | .pwctr1 => startFrame .pwctr1
  | .pwctr2 => startFrame .pwctr2
  | .pwctr3 => startFrame .pwctr3
  | .pwctr4 => startFrame .pwctr4
  | .pwctr5 => startFrame .pwctr5
  | .vmctr1 => startFrame .vmctr1
  | .invoff => startFrame .invoff
  | .invon => startFrame .invon
  | .madctl => startFrame .madctl
  | .colmod => startFrame .colmod
  | .dispon => startFrame .dispon
  | .caset => startFrame .caset
  | .raset => startFrame .raset
  | .ramwr => startFrame .ramwr

theorem exec_idle (i : Instr) {s : State} (h : s.fsm = .idle) : exec i s = .next (startOf i s) := by
  cases i <;>
    simp [exec, startOf, operate, h, execInit, execOrient, execOffset, execWindow, execPixel, execWpix,
      execWpixb, execSpix, execSpixb, execSwreset, execSlpout, execFrmctr1, execFrmctr2, execFrmctr3,
      execInvctr, execPwctr1, execPwctr2, execPwctr3, execPwctr4, execPwctr5, execVmctr1, execInvoff,
      execInvon, execMadctl, execColmod, execDispon, execCaset, execRaset, execRamwr]

theorem exec_running {i : Instr} {s : State} {op : Op} (h : s.fsm = .run op) (hi : i ≠ .offset) :
    exec i s = runStep (instrScript i s) (opTail i.op) s := by
  cases i <;> first | exact absurd rfl hi | skip
  all_goals
    simp [exec, operate, h, instrScript, Instr.op, opTail, execInit, execOrient, execWindow, execPixel,
      execWpix, execWpixb, execSpix, execSpixb, execSwreset, execSlpout, execFrmctr1, execFrmctr2,
      execFrmctr3, execInvctr, execPwctr1, execPwctr2, execPwctr3, execPwctr4, execPwctr5, execVmctr1,
      execInvoff, execInvon, execMadctl, execColmod, execDispon, execCaset, execRaset, execRamwr]

theorem exec_offset_running {s : State} {op : Op} (h : s.fsm = .run op) :
    exec .offset s = .next (finish (writeOffset s)) := by
  simp [exec, execOffset, h]

theorem exec_drain (i : Instr) {s : State} (h : s.fsm = .drain) : exec i s = .next (drainToken s) := by
  cases i <;>
    simp [exec, operate, h, execInit, execOrient, execOffset, execWindow, execPixel, execWpix,
      execWpixb, execSpix, execSpixb, execSwreset, execSlpout, execFrmctr1, execFrmctr2, execFrmctr3,
      execInvctr, execPwctr1, execPwctr2, execPwctr3, execPwctr4, execPwctr5, execVmctr1, execInvoff,
      execInvon, execMadctl, execColmod, execDispon, execCaset, execRaset, execRamwr]

/-- `startOf` for a catalog command. -/
theorem startOf_command (c : Command) : startOf c.instr = startFrame c := by cases c <;> rfl

end Sys2Proof.Machine
end

