-- ==== Sys2Proof/Laws/PerInstr.lean ====
section
/-! SUPPORT. Statements made per instruction. `DefaultEncoding`: under the default catalog the instruction's encoding is
the one spec/opcode_table.json prints for its row, and it decodes back to the instruction. -/

namespace Sys2Proof.Laws.DefaultEncoding

/-- The row's `match` value in spec/opcode_table.json, with its format. -/
def row : Instr → Encoding
  | .init => .command 0x0001
  | .orient .portrait => .command 0x0002
  | .orient .landscape => .command 0x0012
  | .orient .portraitSwapped => .command 0x0022
  | .orient .landscapeSwapped => .command 0x0032
  | .offset => .command 0x0003
  | .window => .command 0x0004
  | .pixel => .command 0x0005
  | .wpix => .command 0x0006
  | .wpixb => .command 0x0007
  | .spix => .command 0x0008
  | .spixb => .command 0x0009
  | .swreset => .opcode 0x01
  | .slpout => .opcode 0x11
  | .frmctr1 => .opcode 0xB1
  | .frmctr2 => .opcode 0xB2
  | .frmctr3 => .opcode 0xB3
  | .invctr => .opcode 0xB4
  | .pwctr1 => .opcode 0xC0
  | .pwctr2 => .opcode 0xC1
  | .pwctr3 => .opcode 0xC2
  | .pwctr4 => .opcode 0xC3
  | .pwctr5 => .opcode 0xC4
  | .vmctr1 => .opcode 0xC5
  | .invoff => .opcode 0x20
  | .invon => .opcode 0x21
  | .madctl => .opcode 0x36
  | .colmod => .opcode 0x3A
  | .dispon => .opcode 0x29
  | .caset => .opcode 0x2A
  | .raset => .opcode 0x2B
  | .ramwr => .opcode 0x2C

/-- The encoding is the table's, and decodes back. -/
def Statement (i : Instr) : Prop :=
  encode defaultOpc i = row i ∧ decode defaultOpc (row i) = .instr i

theorem init : Statement .init := ⟨by decide, by decide⟩
theorem orient (mode : Mode) : Statement (.orient mode) := by
  cases mode <;> exact ⟨by decide, by decide⟩
theorem offset : Statement .offset := ⟨by decide, by decide⟩
theorem window : Statement .window := ⟨by decide, by decide⟩
theorem pixel : Statement .pixel := ⟨by decide, by decide⟩
theorem wpix : Statement .wpix := ⟨by decide, by decide⟩
theorem wpixb : Statement .wpixb := ⟨by decide, by decide⟩
theorem spix : Statement .spix := ⟨by decide, by decide⟩
theorem spixb : Statement .spixb := ⟨by decide, by decide⟩
theorem swreset : Statement .swreset := ⟨by decide, by decide⟩
theorem slpout : Statement .slpout := ⟨by decide, by decide⟩
theorem frmctr1 : Statement .frmctr1 := ⟨by decide, by decide⟩
theorem frmctr2 : Statement .frmctr2 := ⟨by decide, by decide⟩
theorem frmctr3 : Statement .frmctr3 := ⟨by decide, by decide⟩
theorem invctr : Statement .invctr := ⟨by decide, by decide⟩
theorem pwctr1 : Statement .pwctr1 := ⟨by decide, by decide⟩
theorem pwctr2 : Statement .pwctr2 := ⟨by decide, by decide⟩
theorem pwctr3 : Statement .pwctr3 := ⟨by decide, by decide⟩
theorem pwctr4 : Statement .pwctr4 := ⟨by decide, by decide⟩
theorem pwctr5 : Statement .pwctr5 := ⟨by decide, by decide⟩
theorem vmctr1 : Statement .vmctr1 := ⟨by decide, by decide⟩
theorem invoff : Statement .invoff := ⟨by decide, by decide⟩
theorem invon : Statement .invon := ⟨by decide, by decide⟩
theorem madctl : Statement .madctl := ⟨by decide, by decide⟩
theorem colmod : Statement .colmod := ⟨by decide, by decide⟩
theorem dispon : Statement .dispon := ⟨by decide, by decide⟩
theorem caset : Statement .caset := ⟨by decide, by decide⟩
theorem raset : Statement .raset := ⟨by decide, by decide⟩
theorem ramwr : Statement .ramwr := ⟨by decide, by decide⟩

end Sys2Proof.Laws.DefaultEncoding
end

