-- ==== Sys2Proof/Laws/Step.lean ====
section
/-! SUPPORT. What a step leaves alone, and the step by cases: the host's move, or the block waiting, refusing, draining,
starting an instruction or running one. -/

namespace Sys2Proof.Machine

/-- What no step of a running or draining operation other than OFFSET writes. -/
structure Kept (s t : State) : Prop where
  cfg : t.cfg = s.cfg
  dx : t.dx = s.dx
  dy : t.dy = s.dy
  arg : t.arg = s.arg
  opl : t.opl = s.opl
  ill : t.ill = s.ill
  par : t.par = s.par
  cmdPort : t.cmdPort = s.cmdPort
  rdata : t.rdata = s.rdata
  framePort : t.framePort = s.framePort
  host : t.host = s.host

theorem Kept.rfl (s : State) : Kept s s := by constructor <;> rfl

theorem Kept.trans {s t u : State} (h : Kept s t) (k : Kept t u) : Kept s u :=
  ⟨k.cfg.trans h.cfg, k.dx.trans h.dx, k.dy.trans h.dy, k.arg.trans h.arg, k.opl.trans h.opl,
   k.ill.trans h.ill, k.par.trans h.par, k.cmdPort.trans h.cmdPort, k.rdata.trans h.rdata,
   k.framePort.trans h.framePort, k.host.trans h.host⟩

theorem perform_kept (a : Action) (s : State) : Kept s (perform a s).1 := by
  rw [perform_frame]
  constructor <;> rfl

theorem performed_kept {a : Action} {s t : State} {b : Bool} (h : perform a s = (t, b)) : Kept s t := by
  have := perform_kept a s
  rwa [h] at this

/-- An action leaves the sequencer and the FIFO alone. -/
theorem performed_seq {a : Action} {s t : State} {b : Bool} (h : perform a s = (t, b)) :
    t.err = s.err ∧ t.fsm = s.fsm ∧ t.pc = s.pc ∧ t.buf = s.buf ∧ t.idx = s.idx ∧ t.pos = s.pos ∧
      t.pix = s.pix := by
  have hf := perform_frame a s
  rw [h] at hf
  dsimp only at hf
  rw [hf]
  exact ⟨rfl, rfl, rfl, rfl, rfl, rfl, rfl⟩

theorem performed_tr {a : Action} {s t : State} {b : Bool} (h : perform a s = (t, b)) :
    t.tr = s.tr ∨ ∃ e, t.tr = s.tr ++ [e] := by
  have := perform_tr a s
  rwa [h] at this

theorem endScript_kept (tail : Tail) (s : State) : Kept s (endScript tail s) := by
  cases tail <;> constructor <;> rfl

theorem busError_kept (b : Bool) (s : State) : Kept s (busError b s) := by constructor <;> rfl

theorem finish_kept (s : State) : Kept s (finish s) := by constructor <;> rfl

theorem countAction_kept (s : State) : Kept s s.countAction := by constructor <;> rfl

theorem drainToken_kept (s : State) : Kept s (drainToken s) := by
  unfold drainToken
  split
  · exact .rfl s
  · constructor <;> rfl
  · constructor <;> rfl

/-- A script step, by cases: past the end, an action completed with more to come, the last action completed, an action
failed. -/
theorem scriptStep_cases (script : List Action) (tail : Tail) (s : State) :
    (script[s.pc]? = none ∧ scriptStep script tail s = endScript tail s) ∨
    ∃ a t b, script[s.pc]? = some a ∧ perform a s = (t, b) ∧
      ((b = true ∧ s.pc + 1 < script.length ∧ scriptStep script tail s = t.countAction) ∨
       (b = true ∧ script.length ≤ s.pc + 1 ∧ scriptStep script tail s = endScript tail t.countAction) ∨
       (b = false ∧ scriptStep script tail s = busError (tail ≠ .ends) t)) := by
  cases ha : script[s.pc]? with
  | none => exact .inl ⟨by rfl, scriptStep_past ha⟩
  | some a =>
    right
    obtain ⟨t, b⟩ : State × Bool := perform a s
    refine ⟨a, (perform a s).1, (perform a s).2, rfl, rfl, ?_⟩
    cases hb : (perform a s).2 with
    | true =>
      have hp : perform a s = ((perform a s).1, true) := by rw [← hb]
      by_cases hl : s.pc + 1 < script.length
      · exact .inl ⟨rfl, hl, by rw [scriptStep_ok ha hp, if_pos hl]⟩
      · exact .inr (.inl ⟨rfl, by omega, by rw [scriptStep_ok ha hp, if_neg hl]⟩)
    | false =>
      have hp : perform a s = ((perform a s).1, false) := by rw [← hb]
      exact .inr (.inr ⟨rfl, scriptStep_fail ha hp⟩)

theorem scriptStep_kept (script : List Action) (tail : Tail) (s : State) :
    Kept s (scriptStep script tail s) := by
  rcases scriptStep_cases script tail s with ⟨-, h⟩ | ⟨a, t, b, -, hp, ⟨-, -, h⟩ | ⟨-, -, h⟩ | ⟨-, h⟩⟩
  · rw [h]; exact endScript_kept _ _
  · rw [h]; exact (performed_kept hp).trans (countAction_kept _)
  · rw [h]; exact ((performed_kept hp).trans (countAction_kept _)).trans (endScript_kept _ _)
  · rw [h]; exact (performed_kept hp).trans (busError_kept _ _)

theorem wordsToken_kept (s : State) : Kept s (wordsToken s) := by
  unfold wordsToken
  split
  · exact .rfl s
  · constructor <;> rfl
  · constructor <;> rfl

/-- The write of a word, by cases. -/
theorem writeStep_cases (w : Word) (s : State) :
    ∃ t b, perform (.xfer (wordBytes w)) s = (t, b) ∧
      ((b = true ∧ writeStep w s = { t.countAction with pos := .token }) ∨
       (b = false ∧ writeStep w s = busError true t)) := by
  refine ⟨(perform (.xfer (wordBytes w)) s).1, (perform (.xfer (wordBytes w)) s).2, rfl, ?_⟩
  cases hb : (perform (.xfer (wordBytes w)) s).2 with
  | true =>
    have hp : perform (.xfer (wordBytes w)) s = ((perform (.xfer (wordBytes w)) s).1, true) := by rw [← hb]
    exact .inl ⟨rfl, by unfold writeStep; rw [hp]⟩
  | false =>
    have hp : perform (.xfer (wordBytes w)) s = ((perform (.xfer (wordBytes w)) s).1, false) := by rw [← hb]
    exact .inr ⟨rfl, by unfold writeStep; rw [hp]⟩

theorem writeStep_kept (w : Word) (s : State) : Kept s (writeStep w s) := by
  obtain ⟨t, b, hp, ⟨-, h⟩ | ⟨-, h⟩⟩ := writeStep_cases w s
  · rw [h]
    exact (performed_kept hp).trans (by constructor <;> rfl)
  · rw [h]
    exact (performed_kept hp).trans (busError_kept _ _)

/-- `NextToken()` of the pixel FIFO, by cases, where it answers a next state. -/
theorem fifoToken_cases {s t : State} (h : fifoToken s = .next t) :
    (s.pix = [] ∧ t = s) ∨
    (∃ w rest m, s.pix = .word w :: rest ∧ s.buf.putWord s.idx w = some m ∧
      t = { s.countAction with pix := rest, buf := m, idx := s.idx + 2, pos := if s.idx + 2 = fifoBytes then .flush false else .token }) ∨
    (∃ rest, s.pix = .last :: rest ∧ s.idx = 0 ∧ t = finish { s.countAction with pix := rest }) ∨
    (∃ rest, s.pix = .last :: rest ∧ s.idx ≠ 0 ∧
      t = { s.countAction with pix := rest, pos := .flush true }) := by
  unfold fifoToken at h
  split at h
  · rename_i hp
    injection h with h
    exact .inl ⟨hp, h.symm⟩
  · rename_i w rest hp
    split at h
    · cases h
    · rename_i m hm
      injection h with h
      exact .inr (.inl ⟨w, rest, m, hp, hm, h.symm⟩)
  · rename_i rest hp
    split at h
    · rename_i hi
      injection h with h
      exact .inr (.inr (.inl ⟨rest, hp, hi, h.symm⟩))
    · rename_i hi
      injection h with h
      exact .inr (.inr (.inr ⟨rest, hp, hi, h.symm⟩))

theorem fifoToken_kept {s t : State} (h : fifoToken s = .next t) : Kept s t := by
  rcases fifoToken_cases h with ⟨-, rfl⟩ | ⟨w, rest, m, -, -, rfl⟩ | ⟨rest, -, -, rfl⟩ | ⟨rest, -, -, rfl⟩
  · exact .rfl _
  all_goals constructor <;> rfl

/-- A flush, by cases, where it answers a next state. -/
theorem flushStep_cases {last : Bool} {s t : State} (h : flushStep last s = .next t) :
    ∃ bs u b, s.buf.read 0 s.idx = some bs ∧ perform (.xfer bs) s = (u, b) ∧
      ((b = true ∧ last = true ∧ t = finish u.countAction) ∨
       (b = true ∧ last = false ∧ t = { u.countAction with idx := 0, pos := .token }) ∨
       (b = false ∧ t = busError (!last) u)) := by
  unfold flushStep at h
  split at h
  · cases h
  · rename_i bs hr
    refine ⟨bs, (perform (.xfer bs) s).1, (perform (.xfer bs) s).2, hr, rfl, ?_⟩
    split at h
    · rename_i u hp
      rw [hp]
      cases last with
      | true => simp only [if_true] at h; injection h with h; exact .inl ⟨rfl, rfl, h.symm⟩
      | false => simp only [Bool.false_eq_true, if_false] at h; injection h with h; exact .inr (.inl ⟨rfl, rfl, h.symm⟩)
    · rename_i u hp
      rw [hp]
      injection h with h
      exact .inr (.inr ⟨rfl, h.symm⟩)

theorem flushStep_kept {last : Bool} {s t : State} (h : flushStep last s = .next t) : Kept s t := by
  obtain ⟨bs, u, b, -, hp, ⟨-, -, rfl⟩ | ⟨-, -, rfl⟩ | ⟨-, rfl⟩⟩ := flushStep_cases h
  · exact (performed_kept hp).trans (by constructor <;> rfl)
  · exact (performed_kept hp).trans (by constructor <;> rfl)
  · exact (performed_kept hp).trans (busError_kept _ _)

/-- A step of a running operation leaves the host's side, the offsets, the latch and the parameters alone. -/
theorem runStep_kept {script : List Action} {tail : Tail} {s t : State}
    (h : runStep script tail s = .next t) : Kept s t := by
  unfold runStep at h
  split at h
  · injection h with h; exact h ▸ scriptStep_kept _ _ _
  · split at h
    · exact fifoToken_kept h
    · injection h with h; exact h ▸ wordsToken_kept _
    · injection h with h; exact h ▸ finish_kept _
  · injection h with h; exact h ▸ writeStep_kept _ _
  · exact flushStep_kept h

/-- The same for every instruction but OFFSET, running or draining. -/
theorem exec_kept {i : Instr} {s t : State} (hi : i ≠ .offset) (hf : s.fsm ≠ .idle)
    (h : exec i s = .next t) : Kept s t := by
  cases hs : s.fsm with
  | idle => exact absurd hs hf
  | run op => rw [exec_running hs hi] at h; exact runStep_kept h
  | drain => rw [exec_drain i hs] at h; injection h with h; exact h ▸ drainToken_kept s

/-- What the start of an instruction writes. -/
theorem startOf_fields (i : Instr) (s : State) :
    (startOf i s).cfg = s.cfg ∧ (startOf i s).dx = s.dx ∧ (startOf i s).dy = s.dy ∧
    (startOf i s).arg = s.arg ∧ (startOf i s).par = s.par ∧ (startOf i s).host = s.host ∧
    (startOf i s).rdata = s.rdata ∧ (startOf i s).buf = s.buf ∧ (startOf i s).idx = s.idx ∧
    (startOf i s).dcQ = s.dcQ ∧ (startOf i s).rstQ = s.rstQ ∧ (startOf i s).tr = s.tr ∧
    (startOf i s).bus = s.bus ∧ (startOf i s).pix = s.pix ∧ (startOf i s).env = s.env ∧
    (startOf i s).draws = s.draws ∧ (startOf i s).err = false ∧ (startOf i s).ill = false ∧
    (startOf i s).pc = 0 ∧ (startOf i s).pos = .script ∧ (startOf i s).fsm = .run i.op := by
  cases i <;> exact ⟨rfl, rfl, rfl, rfl, rfl, rfl, rfl, rfl, rfl, rfl, rfl, rfl, rfl, rfl, rfl, rfl, rfl, rfl, rfl, rfl, rfl⟩

/-- The step by cases: the host's move, or the block's from the state the host leaves it. -/
theorem step_cases {s t : State} (h : step s = .next t) :
    hostTurn s = .host t ∨ ∃ u, hostTurn s = .block u ∧ blockStep u = .next t := by
  unfold step at h
  split at h
  · rename_i u hu
    injection h with h
    exact .inl (h ▸ hu)
  · rename_i u hu
    exact .inr ⟨u, hu, h⟩

/-- The block's move by cases. -/
theorem blockStep_cases {s t : State} (h : blockStep s = .next t) :
    (fetch s = .wait ∧ t = s) ∨ (∃ i, fetch s = .instr i ∧ exec i s = .next t) ∨
    (fetch s = .illegal ∧ t = illegalCommand s) ∨ (fetch s = .drain ∧ t = drainToken s) := by
  unfold blockStep at h
  split at h
  · rename_i hf; injection h with h; exact .inl ⟨hf, h.symm⟩
  · rename_i i hf; exact .inr (.inl ⟨i, hf, h⟩)
  · rename_i hf; injection h with h; exact .inr (.inr (.inl ⟨hf, h.symm⟩))
  · cases h
  · rename_i hf; injection h with h; exact .inr (.inr (.inr ⟨hf, h.symm⟩))

/-- What the block does while an operation runs. -/
theorem fetch_running {s : State} {op : Op} (h : s.fsm = .run op) :
    fetch s = .instr (op.instr s.latchedMode) := by
  simp [fetch, h]

theorem fetch_drain {s : State} (h : s.fsm = .drain) : fetch s = .drain := by simp [fetch, h]

/-- The host's moves by cases: what the host leaves the block differs from the state before it in the schedule alone. -/
theorem hostTurn_block {s u : State} (h : hostTurn s = .block u) :
    u = s ∨ ∃ rest, s.host = .pause :: rest ∧ u = { s with host := rest } := by
  unfold hostTurn at h
  split at h
  · injection h with h; exact .inl h.symm
  · rename_i a rest hs
    cases a <;> simp only at h
    case pause => injection h with h; exact .inr ⟨rest, hs, h.symm⟩
    case offerCommand w => split at h <;> first | (injection h with h; exact .inl h.symm) | cases h
    case awaitAccept => split at h <;> first | (injection h with h; exact .inl h.symm) | cases h
    case awaitIdle => split at h <;> first | (injection h with h; exact .inl h.symm) | cases h
    all_goals cases h

/-- In the block's turn the step is the block's, from the state the host leaves it. -/
theorem step_block {s u : State} (h : hostTurn s = .block u) : step s = blockStep u := by simp [step, h]

/-- A step of a running operation is its instruction's meaning, whatever the host waits for. -/
theorem step_block_running {s u : State} {op : Op} (h : hostTurn s = .block u) (hf : u.fsm = .run op) :
    step s = exec (op.instr u.latchedMode) u := by
  rw [step_block h, blockStep, fetch_running hf]

/-- A step of a drain takes the next token. -/
theorem step_block_drain {s u : State} (h : hostTurn s = .block u) (hf : u.fsm = .drain) :
    step s = .next (drainToken u) := by
  rw [step_block h, blockStep, fetch_drain hf]

/-- With nothing scheduled, the block moves. -/
theorem hostTurn_nil {s : State} (h : s.host = []) : hostTurn s = .block s := by simp [hostTurn, h]

theorem step_nil {s : State} (h : s.host = []) : step s = blockStep s := by
  simp [step, hostTurn_nil h]

/-- A step of a running operation is its instruction's meaning. -/
theorem step_running {s : State} {op : Op} (hh : s.host = []) (h : s.fsm = .run op) :
    step s = exec (op.instr s.latchedMode) s := by
  rw [step_nil hh, blockStep, fetch_running h]

end Sys2Proof.Machine
end

