-- ==== Sys2Proof/Tests/Slice0.lean ====
section
/-! SUPPORT. The model's own tests. Expected results are written out from the spec's tables and from the vectors of
95_test_vectors; the last part shows, for every statement with hypotheses, a state that meets them. -/

namespace Sys2Proof.Tests

open Sys2Proof.Machine Sys2Proof.Spec

/-! ### The checks of WellFormed.lean -/

/-- 42_bringup R132, 30_encoding R78: the default parameters pass. -/
theorem test_default_parameters_accepted : defaultParams.wellFormed = true := by decide

/-- 42_bringup R132: "Every entry of `INIT_PARAMS` is a non-empty list". -/
theorem test_empty_entry_refused :
    { defaultParams with initParams := { defaultInitParams with colmod := [] } }.wellFormed = false := by decide

/-- 20_memory R59: a transaction carries at most 32 bytes. -/
theorem test_long_entry_refused :
    { defaultParams with initParams := { defaultInitParams with vmctr1 := List.replicate 33 0 } }.wellFormed
      = false := by decide

/-- 30_encoding R78: the catalog values are pairwise distinct. -/
theorem test_repeated_opcode_refused :
    { defaultParams with opc := { defaultOpc with raset := 0x2A } }.wellFormed = false := by decide

/-- 30_encoding R82: `ex >= sx`. -/
theorem test_fill_with_reversed_columns_refused : (AsmLine.fill 3 0 2 4 0x001F).wellFormed = false := by decide

/-- 30_encoding R82: `ey >= sy`. -/
theorem test_fill_with_reversed_rows_refused : (AsmLine.fill 0 5 3 4 0x001F).wellFormed = false := by decide

/-- 30_encoding R82: a one-pixel rectangle is one. -/
theorem test_fill_of_one_pixel_accepted : (AsmLine.fill 3 4 3 4 0x001F).wellFormed = true := by decide

/-- 41_address_window R123: a window with reversed corners is no ill-formed line. -/
theorem test_reversed_window_accepted : (AsmLine.window 50 60 10 5).wellFormed = true := by decide

/-! ### Decoding: words written out from 30_encoding R70 to R72 (bits 15 to 6 zero, ORIENT, OP) and R77 -/

theorem test_decode_init : decodeTableWord 16 0b0000000000000001 = some .init := by decide
theorem test_decode_orient_portrait : decodeTableWord 16 0b0000000000000010 = some (.orient .portrait) := by decide
theorem test_decode_orient_landscape : decodeTableWord 16 0b0000000000010010 = some (.orient .landscape) := by decide
theorem test_decode_orient_portrait_swapped : decodeTableWord 16 0b0000000000100010 = some (.orient .portraitSwapped) := by decide
theorem test_decode_orient_landscape_swapped : decodeTableWord 16 0b0000000000110010 = some (.orient .landscapeSwapped) := by decide
theorem test_decode_offset : decodeTableWord 16 0b0000000000000011 = some .offset := by decide
theorem test_decode_window : decodeTableWord 16 0b0000000000000100 = some .window := by decide
theorem test_decode_pixel : decodeTableWord 16 0b0000000000000101 = some .pixel := by decide
theorem test_decode_wpix : decodeTableWord 16 0b0000000000000110 = some .wpix := by decide
theorem test_decode_wpixb : decodeTableWord 16 0b0000000000000111 = some .wpixb := by decide
theorem test_decode_spix : decodeTableWord 16 0b0000000000001000 = some .spix := by decide
theorem test_decode_spixb : decodeTableWord 16 0b0000000000001001 = some .spixb := by decide
theorem test_decode_swreset : decodeTableWord 8 0b00000001 = some .swreset := by decide
theorem test_decode_slpout : decodeTableWord 8 0b00010001 = some .slpout := by decide
theorem test_decode_frmctr1 : decodeTableWord 8 0b10110001 = some .frmctr1 := by decide
theorem test_decode_frmctr2 : decodeTableWord 8 0b10110010 = some .frmctr2 := by decide
theorem test_decode_frmctr3 : decodeTableWord 8 0b10110011 = some .frmctr3 := by decide
theorem test_decode_invctr : decodeTableWord 8 0b10110100 = some .invctr := by decide
theorem test_decode_pwctr1 : decodeTableWord 8 0b11000000 = some .pwctr1 := by decide
theorem test_decode_pwctr2 : decodeTableWord 8 0b11000001 = some .pwctr2 := by decide
theorem test_decode_pwctr3 : decodeTableWord 8 0b11000010 = some .pwctr3 := by decide
theorem test_decode_pwctr4 : decodeTableWord 8 0b11000011 = some .pwctr4 := by decide
theorem test_decode_pwctr5 : decodeTableWord 8 0b11000100 = some .pwctr5 := by decide
theorem test_decode_vmctr1 : decodeTableWord 8 0b11000101 = some .vmctr1 := by decide
theorem test_decode_invoff : decodeTableWord 8 0b00100000 = some .invoff := by decide
theorem test_decode_invon : decodeTableWord 8 0b00100001 = some .invon := by decide
theorem test_decode_madctl : decodeTableWord 8 0b00110110 = some .madctl := by decide
theorem test_decode_colmod : decodeTableWord 8 0b00111010 = some .colmod := by decide
theorem test_decode_dispon : decodeTableWord 8 0b00101001 = some .dispon := by decide
theorem test_decode_caset : decodeTableWord 8 0b00101010 = some .caset := by decide
theorem test_decode_raset : decodeTableWord 8 0b00101011 = some .raset := by decide
theorem test_decode_ramwr : decodeTableWord 8 0b00101100 = some .ramwr := by decide

/-- 95_test_vectors 2.7: OP 0 is reserved. -/
theorem test_reject_op_zero : decodeCommand 0x0000 = .rejected .reservedOp := by decide

/-- 95_test_vectors 2.7: OP 0xA is reserved. -/
theorem test_reject_op_ten : decodeCommand 0x000A = .rejected .reservedOp := by decide

/-- 95_test_vectors 2.7: ORIENT bits with OFFSET. -/
theorem test_reject_orient_bits : decodeCommand 0x0013 = .rejected .orientBits := by decide

/-- 95_test_vectors 2.7: bit 6 and bit 15 are reserved. -/
theorem test_reject_reserved_bits :
    decodeCommand 0x0042 = .rejected .reservedBits ∧ decodeCommand 0x8001 = .rejected .reservedBits := by decide

/-- 30_encoding R77: 0x00 is no catalog opcode. -/
theorem test_reject_unknown_opcode : decodeOpcode defaultOpc 0x00 = .rejected .unknownOpcode := by decide

/-! ### One step of each instruction -/

/-- The next state, if there is one. -/
def nextOf : StepResult → Option State
  | .next t => some t
  | .fault _ => none
  | .refused _ => none

/-- A reset block with a command word on its port and the environment's next answers listed. -/
def offered (w : Word) (answers : List Answer) : State :=
  { State.reset with cmdPort := some w, env := answers }

/-- A block running an operation accepted with the given operands, at an action. -/
def running (op : Op) (pc : Nat) (a : Operands) (answers : List Answer) : State :=
  { State.reset with
    fsm := .run op, pc := pc, env := answers
    opl := ⟨op.word .portrait, a, 0, 0⟩ }

/-- The trace and the sequencer state after a step of an instruction. -/
def traceOf (i : Instr) (s : State) : Option (List Event × Fsm) := (nextOf (exec i s)).map fun t => (t.tr, t.fsm)

/-- 42_bringup R137, event 15. -/
theorem test_init_event_15 :
    traceOf .init (running .init 14 (.all 0) [.ok]) = some ([.wr [0x01, 0x2C, 0x2D] .ok], .run .init) := by decide

/-- V-INIT-157: event 57 answered FAIL. -/
theorem test_init_event_57_fails :
    traceOf .init (running .init 56 (.all 0) [.fail 0]) = some ([.wr [0x00] .fail], .idle) := by decide

/-- V-OR-8: LANDSCAPE_SWAPPED with RGB = 0. -/
theorem test_orient_byte :
    traceOf (.orient .landscapeSwapped)
      { running .orient 3 (.all 0) [.ok] with cfg := { defaultStraps with rgb := false } }
      = some ([.wr [0xA8] .ok], .idle) := by decide

/-- V-EX-3: a failed `PIN(DC,1)` leaves the line UNKNOWN and sets `ERR` alone. -/
theorem test_orient_failed_drive :
    (nextOf (exec (.orient .landscape) (running .orient 2 (.all 0) [.fail 0]))).map
      (fun t => (t.dcQ, t.statusWord)) = some (.unknown, 0b010) := by decide

/-- V-OFF-1. -/
theorem test_offset_writes_both :
    (nextOf (exec .offset (running .offset 0 ⟨2, 1, 0, 0⟩ []))).map
      (fun t => (t.dx, t.dy, t.statusWord, t.tr)) = some (2, 1, 0, []) := by decide

/-- V-WIN-3: the row sums 0xFFFE + 3 and the column sums 0xFFFF + 1 wrap. -/
theorem test_window_wraps :
    ([3, 8].map fun pc => traceOf .window
      { running .window pc (.all 0) [.ok] with
        opl := ⟨0x0004, ⟨0xFFFF, 0xFFFE, 0xFFFF, 0xFFFF⟩, 1, 3⟩ })
      = [some ([.wr [0x00, 0x00] .ok], .run .window), some ([.wr [0x00, 0x01] .ok], .run .window)] := by decide

/-- V-DR-1: the colour word is the last event. -/
theorem test_pixel_colour :
    traceOf .pixel (running .pixel 13 ⟨5, 7, 0xF800, 0⟩ [.ok]) = some ([.wr [0xF8, 0x00] .ok], .idle) := by decide

/-- V-DR-1: event 9, the row. -/
theorem test_pixel_row :
    traceOf .pixel (running .pixel 8 ⟨5, 7, 0xF800, 0⟩ [.ok])
      = some ([.wr [0x00, 0x07] .ok], .run .pixel) := by decide

/-- V-DR-5: one word, one transaction. -/
theorem test_wpix_word :
    traceOf .wpix { running .wpix 4 (.all 0) [.ok] with pos := .write 0xABCD }
      = some ([.wr [0xAB, 0xCD] .ok], .run .wpix) := by decide

/-- V-DR-9: the write of the second word fails, and the block drains. -/
theorem test_wpix_failed_word :
    traceOf .wpix { running .wpix 6 (.all 0) [.fail 1] with pos := .write 0x2222, pix := [.word 0x3333, .last] }
      = some ([.wr [0x22, 0x22] .fail], .drain) := by decide

/-- The bytes `0, 1, ...` at the front of the buffer. -/
def filled (n : Nat) : Machine.Memory := (List.range n).map fun i => (i, BitVec.ofNat 8 i)

/-- A block running a buffered stream with `n` bytes in its buffer, at a place in its token loop. -/
def buffering (op : Op) (n : Nat) (pos : Pos) (pix : List Token) (answers : List Answer) : State :=
  { running op 3 (.all 0) answers with buf := filled n, idx := n, pos := pos, pix := pix, dcQ := .known .hi }

/-- 40_framer R103: the sixteenth word makes `IDX` 32 and a flush next. -/
theorem test_wpixb_sixteenth_word :
    (nextOf (exec .wpixb (buffering .wpixb 30 .token [.word 0xABCD] []))).map
      (fun t => (t.idx, t.pos, t.buf.get 30, t.buf.get 31)) = some (32, .flush false, some 0xAB, some 0xCD) := by
  decide

/-- V-BUF-10: a full flush that fails drains. -/
theorem test_wpixb_failed_flush :
    (nextOf (exec .wpixb (buffering .wpixb 32 (.flush false) [.word 0] [.fail 5]))).map
      (fun t => (t.fsm, t.err, t.bus.map (·.byte))) = some (.drain, true, [0, 1, 2, 3, 4]) := by decide

/-- 45_drawing R173: after the ten window events comes the RAMWR frame. -/
theorem test_spix_eleventh_event :
    traceOf .spix (running .spix 10 (.all 0) [.ok]) = some ([.pin .dc .lo .ok], .run .spix) := by decide

/-- V-DR-10: a failure in the window part drains the whole stream. -/
theorem test_spix_failed_window :
    traceOf .spix { running .spix 0 (.all 0) [.fail 0] with pix := [.word 0x1111, .last] }
      = some ([.pin .dc .lo .fail], .drain) := by decide

/-- V-DR-8 and P2: the final flush of 8 bytes ends the operation and leaves `IDX` at 8. -/
theorem test_spixb_final_flush :
    (nextOf (exec .spixb (buffering .spixb 8 (.flush true) [] [.ok]))).map (fun t => (t.tr, t.fsm, t.idx))
      = some ([.wr [0, 1, 2, 3, 4, 5, 6, 7] .ok], .idle, 8) := by decide

/-- 60_exceptions R202: a final flush that fails ends the operation, since END was taken. -/
theorem test_spixb_failed_final_flush :
    (nextOf (exec .spixb (buffering .spixb 8 (.flush true) [] [.fail 0]))).map (fun t => (t.fsm, t.err))
      = some (.idle, true) := by decide

/-! The command frames: the opcode, and the parameters of 42_bringup R132 and R134. -/

theorem test_swreset_frame : [1, 2].map (fun pc => traceOf .swreset (running (.frame .swreset) pc (.all 0) [.ok]))
    = [some ([.wr [0x01] .ok], .run (.frame .swreset)), some ([.dly 200], .idle)] := by decide
theorem test_slpout_frame : [1, 2].map (fun pc => traceOf .slpout (running (.frame .slpout) pc (.all 0) [.ok]))
    = [some ([.wr [0x11] .ok], .run (.frame .slpout)), some ([.dly 200], .idle)] := by decide
theorem test_frmctr1_frame : [1, 3].map (fun pc => traceOf .frmctr1 (running (.frame .frmctr1) pc (.all 0) [.ok]))
    = [some ([.wr [0xB1] .ok], .run (.frame .frmctr1)), some ([.wr [0x01, 0x2C, 0x2D] .ok], .idle)] := by decide
theorem test_frmctr2_frame : [1, 3].map (fun pc => traceOf .frmctr2 (running (.frame .frmctr2) pc (.all 0) [.ok]))
    = [some ([.wr [0xB2] .ok], .run (.frame .frmctr2)), some ([.wr [0x01, 0x2C, 0x2D] .ok], .idle)] := by decide
theorem test_frmctr3_frame : [1, 3].map (fun pc => traceOf .frmctr3 (running (.frame .frmctr3) pc (.all 0) [.ok]))
    = [some ([.wr [0xB3] .ok], .run (.frame .frmctr3)), some ([.wr [0x01, 0x2C, 0x2D, 0x01, 0x2C, 0x2D] .ok], .idle)] := by decide
theorem test_invctr_frame : [1, 3].map (fun pc => traceOf .invctr (running (.frame .invctr) pc (.all 0) [.ok]))
    = [some ([.wr [0xB4] .ok], .run (.frame .invctr)), some ([.wr [0x07] .ok], .idle)] := by decide
theorem test_pwctr1_frame : [1, 3].map (fun pc => traceOf .pwctr1 (running (.frame .pwctr1) pc (.all 0) [.ok]))
    = [some ([.wr [0xC0] .ok], .run (.frame .pwctr1)), some ([.wr [0xA2, 0x02, 0x84] .ok], .idle)] := by decide
theorem test_pwctr2_frame : [1, 3].map (fun pc => traceOf .pwctr2 (running (.frame .pwctr2) pc (.all 0) [.ok]))
    = [some ([.wr [0xC1] .ok], .run (.frame .pwctr2)), some ([.wr [0xC5] .ok], .idle)] := by decide
theorem test_pwctr3_frame : [1, 3].map (fun pc => traceOf .pwctr3 (running (.frame .pwctr3) pc (.all 0) [.ok]))
    = [some ([.wr [0xC2] .ok], .run (.frame .pwctr3)), some ([.wr [0x0A, 0x00] .ok], .idle)] := by decide
theorem test_pwctr4_frame : [1, 3].map (fun pc => traceOf .pwctr4 (running (.frame .pwctr4) pc (.all 0) [.ok]))
    = [some ([.wr [0xC3] .ok], .run (.frame .pwctr4)), some ([.wr [0x8A, 0x2A] .ok], .idle)] := by decide
theorem test_pwctr5_frame : [1, 3].map (fun pc => traceOf .pwctr5 (running (.frame .pwctr5) pc (.all 0) [.ok]))
    = [some ([.wr [0xC4] .ok], .run (.frame .pwctr5)), some ([.wr [0x8A, 0xEE] .ok], .idle)] := by decide
theorem test_vmctr1_frame : [1, 3].map (fun pc => traceOf .vmctr1 (running (.frame .vmctr1) pc (.all 0) [.ok]))
    = [some ([.wr [0xC5] .ok], .run (.frame .vmctr1)), some ([.wr [0x0E] .ok], .idle)] := by decide
theorem test_invoff_frame : traceOf .invoff (running (.frame .invoff) 1 (.all 0) [.ok])
    = some ([.wr [0x20] .ok], .idle) := by decide
theorem test_invon_frame : traceOf .invon (running (.frame .invon) 1 (.all 0) [.ok])
    = some ([.wr [0x21] .ok], .idle) := by decide
theorem test_madctl_frame : [1, 3].map (fun pc => traceOf .madctl (running (.frame .madctl) pc (.all 0) [.ok]))
    = [some ([.wr [0x36] .ok], .run (.frame .madctl)), some ([.wr [0x00] .ok], .idle)] := by decide
theorem test_colmod_frame : [1, 3].map (fun pc => traceOf .colmod (running (.frame .colmod) pc (.all 0) [.ok]))
    = [some ([.wr [0x3A] .ok], .run (.frame .colmod)), some ([.wr [0x05] .ok], .idle)] := by decide
theorem test_dispon_frame : [1, 2].map (fun pc => traceOf .dispon (running (.frame .dispon) pc (.all 0) [.ok]))
    = [some ([.wr [0x29] .ok], .run (.frame .dispon)), some ([.dly 200], .idle)] := by decide
theorem test_caset_frame : [1, 3, 4].map (fun pc => traceOf .caset (running (.frame .caset) pc ⟨10, 20, 30, 40⟩ [.ok]))
    = [some ([.wr [0x2A] .ok], .run (.frame .caset)), some ([.wr [0x00, 0x0A] .ok], .run (.frame .caset)),
       some ([.wr [0x00, 0x1E] .ok], .idle)] := by decide
theorem test_raset_frame : [1, 3, 4].map (fun pc => traceOf .raset (running (.frame .raset) pc ⟨10, 20, 30, 40⟩ [.ok]))
    = [some ([.wr [0x2B] .ok], .run (.frame .raset)), some ([.wr [0x00, 0x14] .ok], .run (.frame .raset)),
       some ([.wr [0x00, 0x28] .ok], .idle)] := by decide
theorem test_ramwr_frame : [1, 2].map (fun pc => traceOf .ramwr (running (.frame .ramwr) pc (.all 0) [.ok]))
    = [some ([.wr [0x2C] .ok], .run (.frame .ramwr)), some ([.pin .dc .hi .ok], .idle)] := by decide

/-! ### Acceptance, the register port, reset -/

/-- V-EX-1, first command: STATUS = 0b100, the trace empty. -/
theorem test_illegal_word :
    (nextOf (Machine.step (offered 0x000A []))).map (fun t => (t.statusWord, t.tr, t.fsm)) = some (0b100, [], .idle) := by
  decide

/-- 10_state R38: acceptance latches the operands and makes BUSY read 1. -/
theorem test_acceptance :
    (nextOf (Machine.step { offered 0x0022 [] with ill := true, arg := ⟨1, 2, 3, 4⟩, dx := 5, dy := 6 })).map
      (fun t => (t.opl, t.statusWord, t.fsm)) = some (⟨0x0022, ⟨1, 2, 3, 4⟩, 5, 6⟩, 0b001, .run .orient) := by decide

/-- V-RST-1: the reads of a block with RGB = 0, INVERTED = 1, WIDTH = 128, HEIGHT = 160. -/
theorem test_reset_reads :
    [0, 1, 2, 3, 4, 5, 6, 7, 8, 9, 10, 15].map
      (State.resetWith ⟨false, true, 128, 160⟩ defaultParams).readReg
      = [0, 0, 0, 0, 0, 0, 0, 0x0002, 0x0080, 0x00A0, 0, 0] := by decide

/-- 60_exceptions R202: draining takes `END` and goes idle. -/
theorem test_drain_takes_end :
    (nextOf (Machine.step { State.reset with fsm := .drain, err := true, pix := [.last] })).map
      (fun t => (t.fsm, t.pix, t.statusWord)) = some (.idle, [], 0b010) := by decide

/-- 30_encoding R81: the port actions of `OFFSET 2, 1` in order. -/
theorem test_expansion_of_offset :
    (AsmLine.offset 2 1).expand
      = [.regWrite 0 2, .regWrite 1 1, .offerCommand 0x0003, .awaitAccept, .awaitIdle, .regRead 4] := by decide

/-- 30_encoding R81: `ORIENT` is `0x0002 + 16 * mode`. -/
theorem test_orient_command_words :
    [Mode.portrait, .landscape, .portraitSwapped, .landscapeSwapped].map (Op.word .orient)
      = [0x0002, 0x0012, 0x0022, 0x0032] := by decide

/-- 30_encoding R81: a line's text, decimal and hexadecimal. -/
theorem test_text_of_pixel :
    AsmLine.ofText ['P', 'I', 'X', 'E', 'L', ' ', '5', ',', ' ', '7', ',', '0', 'x', 'F', '8', '0', '0']
      = some (.pixel 5 7 0xF800) := by decide

/-- 30_encoding R81: a stream is a brace list; 65536 is no 16-bit value. -/
theorem test_text_of_stream :
    AsmLine.ofText (['W', 'P', 'I', 'X', ' ', Char.ofNat 0x7B, '1', ',', ' ', '0', 'x', '2', Char.ofNat 0x7D])
      = some (.wpix [1, 2]) ∧
    AsmLine.ofText (['W', 'P', 'I', 'X', 'B', ' ', Char.ofNat 0x7B, Char.ofNat 0x7D]) = some (.wpixb []) ∧
    AsmLine.ofText (['O', 'F', 'F', 'S', 'E', 'T', ' ', '6', '5', '5', '3', '6', ',', '1']) = none := by decide

/-- 30_encoding R81: one operation per line. -/
theorem test_text_of_program :
    programOfText ['I', 'N', 'I', 'T', '\n', '\n', 'O', 'R', 'I', 'E', 'N', 'T', ' ', 'L', 'A', 'N', 'D', 'S', 'C', 'A',
      'P', 'E'] = some [.init, .orient .landscape] := by decide

/-- 70_reset R234 and R240: no drawing after a failed INIT; no token after the illegal word 0x0016. -/
theorem test_run_rules :
    reinitRule false [(.init, true), (.init, false), (.window 0 0 1 1, false)] = true ∧
      reinitRule false [(.init, true), (.window 0 0 1 1, false)] = false ∧
      tokensAfterLegal false [.offerCommand 0x0016, .awaitAccept, .offerToken .last] = false := by decide

/-- 60_exceptions R210: 200 ms at 1000 Hz, and a bound rounded up. -/
theorem test_delay_cycles : minDelayCycles 1000 200 = 200 ∧ minDelayCycles 1001 10 = 11 := by decide

/-- 70_reset R232 and R236: a stream needs INIT and a window before it. -/
theorem test_host_rules :
    hostRules 0 0 [.init, .window 0 0 1 0, .wpix [1, 2]] = true ∧ hostRules 0 0 [.window 0 0 1 0] = false
      ∧ hostRules 0 0 [.init, .wpix [1, 2]] = false ∧ hostRules 0 0 [.init, .pixel 0xFFFF 0 1] = true
      ∧ hostRules 0 0 [.init, .offset 1 0, .pixel 0xFFFF 0 1] = false := by decide

/-- The step runs a word of the opcode table placed where it fetches. -/
theorem test_fetch_word :
    ((nextOf (Machine.step (State.reset.withFetchWord 16 0x0008))).map (·.fsm),
     (nextOf (Machine.step (State.reset.withFetchWord 8 0x2C))).map (·.fsm))
      = (some (.run .spix), some (.run (.frame .ramwr))) := by decide

/-! ### Witnesses: states that meet the hypotheses of each statement -/

/-- An idle or draining block meets the invariant. -/
theorem inv_at_rest {s : State} (hp : s.par.WellFormed) (hb : s.buf.wf) (he : s.idx % 2 = 0) (ht : s.idx ≤ 32)
    (hs : s.StatusOk) (hf : s.fsm = .idle ∨ s.fsm = .drain) (hpos : s.pos = .script) (hfr : s.framePort = none)
    (htr : s.tr = []) : s.Inv where
  params := hp
  bufForm := hb
  idxEven := he
  idxTop := ht
  status := hs
  place := fun op h => by rcases hf with hf | hf <;> rw [hf] at h <;> cases h
  rest := fun _ => hpos
  latch := fun op h => by rcases hf with hf | hf <;> rw [hf] at h <;> cases h
  slot := fun b h => by rw [hfr] at h; cases h
  widths := fun e h => by rw [htr] at h; cases h

/-- A block running an operation meets the invariant when its place and its latch do. -/
theorem inv_running {s : State} {op : Op} (hp : s.par.WellFormed) (hb : s.buf.wf) (he : s.idx % 2 = 0)
    (ht : s.idx ≤ 32) (hf : s.fsm = .run op) (hs : s.StatusOk) (hpl : s.PlaceOk op) (hl : s.LatchOk op)
    (hfr : s.framePort = none) (htr : s.tr = []) : s.Inv where
  params := hp
  bufForm := hb
  idxEven := he
  idxTop := ht
  status := hs
  place := fun o h => by rw [hf] at h; cases h; exact hpl
  rest := fun h => absurd hf (h op)
  latch := fun o h => by rw [hf] at h; cases h; exact hl
  slot := fun b h => by rw [hfr] at h; cases h
  widths := fun e h => by rw [htr] at h; cases h

theorem witness_parameters_well_formed : defaultParams.WellFormed := ⟨by decide, by decide⟩

/-- The latch condition of a host operation. -/
theorem latch_of_decode {s : State} {op : Op} (h : decodeCommand s.opl.cmd = .instr (op.instr s.latchedMode)) :
    s.LatchOk op := by
  cases op <;> first | exact h | trivial

/-- The state right after reset meets the invariant. -/
theorem witness_reset_inv : State.reset.Inv :=
  inv_at_rest witness_parameters_well_formed (by decide) rfl (by decide) (fun h => nomatch h.1) (.inl rfl) rfl rfl rfl

/-- `FailedStreamWriteAborts`, `BufferedLoopAppendsEachWord`: a word to append at the last place of the buffer. -/
theorem witness_buffering_last_word :
    (buffering .wpixb 30 .token [.word 0xABCD, .last] [.ok]).Inv :=
  inv_running witness_parameters_well_formed (by decide) rfl (by decide) rfl ⟨rfl, rfl⟩
    (.inr ⟨rfl, by decide, Memory.written_of_isSome (by decide)⟩) (latch_of_decode (by decide)) rfl rfl

/-- `BufferedLoopAppendsEachWord`: the first word, in an empty buffer, and (for SPIXB) `END` there. -/
theorem witness_buffering_empty :
    (buffering .wpixb 0 .token [.word 0xABCD, .last] []).Inv ∧ (buffering .spixb 0 .token [.last] []).Inv ∧
      (buffering .spixb 0 .token [] []).Inv :=
  ⟨inv_running witness_parameters_well_formed (by decide) rfl (by decide) rfl ⟨rfl, rfl⟩
      (.inr ⟨rfl, by decide, Memory.written_of_isSome (by decide)⟩) (latch_of_decode (by decide)) rfl rfl,
   inv_running witness_parameters_well_formed (by decide) rfl (by decide) rfl ⟨rfl, rfl⟩
      (.inr ⟨rfl, by decide, Memory.written_of_isSome (by decide)⟩) (latch_of_decode (by decide)) rfl rfl,
   inv_running witness_parameters_well_formed (by decide) rfl (by decide) rfl ⟨rfl, rfl⟩
      (.inr ⟨rfl, by decide, Memory.written_of_isSome (by decide)⟩) (latch_of_decode (by decide)) rfl rfl⟩

/-- `BufferedLoopAppendsEachWord`: `END` with words still buffered. -/
theorem witness_buffering_end : (buffering .spixb 2 .token [.last] []).Inv :=
  inv_running witness_parameters_well_formed (by decide) rfl (by decide) rfl ⟨rfl, rfl⟩
    (.inr ⟨rfl, by decide, Memory.written_of_isSome (by decide)⟩) (latch_of_decode (by decide)) rfl rfl

/-- `FlushSendsTheBufferedBytes`: a full flush of 32 bytes, and a final flush of 2 and of 30. -/
theorem witness_flushes :
    ((buffering .wpixb 32 (.flush false) [] [.ok]).Inv ∧
      (buffering .wpixb 32 (.flush false) [] [.ok]).nextAnswer = .ok) ∧
    ((buffering .spixb 2 (.flush true) [] [.ok]).Inv ∧
      (buffering .spixb 2 (.flush true) [] [.ok]).nextAnswer = .ok) ∧
    ((buffering .spixb 30 (.flush true) [] [.ok]).Inv ∧
      (buffering .spixb 30 (.flush true) [] [.ok]).nextAnswer = .ok) :=
  ⟨⟨inv_running witness_parameters_well_formed (by decide) rfl (by decide) rfl ⟨rfl, rfl⟩
      ⟨rfl, by decide, Memory.written_of_isSome (by decide), rfl⟩ (latch_of_decode (by decide)) rfl rfl, rfl⟩,
   ⟨inv_running witness_parameters_well_formed (by decide) rfl (by decide) rfl ⟨rfl, rfl⟩
      ⟨rfl, by decide, Memory.written_of_isSome (by decide), by decide⟩
      (latch_of_decode (by decide)) rfl rfl, rfl⟩,
   ⟨inv_running witness_parameters_well_formed (by decide) rfl (by decide) rfl ⟨rfl, rfl⟩
      ⟨rfl, by decide, Memory.written_of_isSome (by decide), by decide⟩
      (latch_of_decode (by decide)) rfl rfl, rfl⟩⟩

/-- `FailedStreamWriteAborts`: a failing word write, a failing full flush and a failing final flush. -/
theorem witness_failing_stream_writes :
    ({ running .spix 14 (.all 0) [.fail 1] with pos := .write 0xABCD }.Inv ∧
      { running .spix 14 (.all 0) [.fail 1] with pos := .write 0xABCD }.nextAnswer = .fail 1) ∧
    ((buffering .wpixb 32 (.flush false) [] [.fail 32]).Inv ∧
      (buffering .wpixb 32 (.flush false) [] [.fail 32]).nextAnswer = .fail 32) ∧
    ((buffering .spixb 2 (.flush true) [] [.fail 0]).Inv ∧
      (buffering .spixb 2 (.flush true) [] [.fail 0]).nextAnswer = .fail 0) :=
  ⟨⟨inv_running witness_parameters_well_formed (by decide) rfl (by decide) rfl ⟨rfl, rfl⟩ rfl
      (latch_of_decode (by decide)) rfl rfl, rfl⟩,
   ⟨inv_running witness_parameters_well_formed (by decide) rfl (by decide) rfl ⟨rfl, rfl⟩
      ⟨rfl, by decide, Memory.written_of_isSome (by decide), rfl⟩ (latch_of_decode (by decide)) rfl rfl, rfl⟩,
   ⟨inv_running witness_parameters_well_formed (by decide) rfl (by decide) rfl ⟨rfl, rfl⟩
      ⟨rfl, by decide, Memory.written_of_isSome (by decide), by decide⟩
      (latch_of_decode (by decide)) rfl rfl, rfl⟩⟩

/-- `EveryStepKeepsTheInvariant`, `NoStepChangesStrapsOrParameters`, `ExecLeavesTheRestUnchanged`: a state with the
invariant, and its next state. -/
theorem witness_step_from_inv :
    ∃ t, (buffering .wpixb 30 .token [.word 0xABCD, .last] [.ok]).Inv ∧
      (∀ op, (buffering .wpixb 30 .token [.word 0xABCD, .last] [.ok]).fsm = .run op → op = Instr.wpixb.op) ∧
      exec .wpixb (buffering .wpixb 30 .token [.word 0xABCD, .last] [.ok]) = .next t ∧
      Machine.step (buffering .wpixb 30 .token [.word 0xABCD, .last] [.ok]) = .next t :=
  ⟨_, witness_buffering_last_word, fun op h => by cases h; rfl, rfl, rfl⟩

/-- `EveryStepKeepsTheDcDiscipline`: a block about to send its second opcode byte. -/
theorem witness_step_from_dc_inv :
    ∃ t, { running .window 6 (.all 0) [.ok] with dcQ := .known .lo }.Inv ∧
      { running .window 6 (.all 0) [.ok] with dcQ := .known .lo }.DcInv ∧
      Machine.step { running .window 6 (.all 0) [.ok] with dcQ := .known .lo } = .next t := by
  refine ⟨_, inv_running witness_parameters_well_formed (by decide) rfl (by decide) rfl ⟨rfl, rfl⟩ (.inl (by decide))
    (latch_of_decode (by decide)) rfl rfl, ⟨fun op h => ?_, fun b h => nomatch h⟩, rfl⟩
  cases h
  intro l hl
  have : lastDc ((opScript .window { running .window 6 (.all 0) [.ok] with dcQ := .known .lo }).take 6) = some .lo := by
    decide
  cases (this.symm.trans hl)
  rfl

/-- `DecodeOfEncodeIsTheInstruction`, `FrameStartLatchesOperands`. -/
theorem witness_catalog_distinct : defaultOpc.Distinct := by decide

/-- `EncodeOfDecodeIsTheEncoding`, in both formats. -/
theorem witness_decodes :
    decode defaultOpc (.command 0x0032) = .instr (.orient .landscapeSwapped) ∧
      decode defaultOpc (.opcode 0x2C) = .instr .ramwr := by decide

/-- `StepRunsTheDecodedInstruction`: each of its three cases. -/
theorem witness_decoded_instruction :
    ((running .orient 0 (.all 0) []).host = [] ∧ (running .orient 0 (.all 0) []).fsm = .run .orient ∧
      Op.orient.instr (Mode.ofBits (orientField (running .orient 0 (.all 0) []).opl.cmd)) = .orient .portrait) ∧
    ((offered 0x0012 []).host = [] ∧ (offered 0x0012 []).fsm = .idle ∧ (offered 0x0012 []).framePort = none ∧
      (offered 0x0012 []).cmdPort = some 0x0012 ∧
      decode defaultOpc (.command 0x0012) = .instr (.orient .landscape)) ∧
    ((State.reset.withFetchWord 8 0x29).host = [] ∧ (State.reset.withFetchWord 8 0x29).fsm = .idle ∧
      (State.reset.withFetchWord 8 0x29).framePort = some 0x29 ∧
      decode defaultOpc (.opcode 0x29) = .instr .dispon) := by decide

/-- `LegalWordIsAccepted`, at words at the ends of their ranges. -/
theorem witness_legal_words :
    ((offered 0x0001 []).host = [] ∧ (offered 0x0001 []).fsm = .idle ∧ (offered 0x0001 []).framePort = none ∧
      (offered 0x0001 []).cmdPort = some 0x0001 ∧ (0x0001, .init) ∈ legalWords) ∧
    ((offered 0x0032 []).cmdPort = some 0x0032 ∧ (0x0032, .orient .landscapeSwapped) ∈ legalWords) ∧
    ((offered 0x0009 []).cmdPort = some 0x0009 ∧ (0x0009, .spixb) ∈ legalWords) := by decide

/-- Whole-operation statements and `LegalWordIsAccepted`: a word offered to an idle block, with answers listed. -/
theorem witness_offered (w : Word) (answers : List Answer) : Offered (offered w answers) w answers :=
  ⟨rfl, rfl, rfl, rfl, rfl⟩

/-- The stream statements: a word offered, and a stream on the token port (17 words; the empty stream). -/
theorem witness_offered_streams (w : Word) (answers : List Answer) :
    (Offered { offered w answers with pix := (List.replicate 17 0x1234).map .word ++ .last :: [] } w answers) ∧
      Offered { offered w answers with pix := ([] : List Word).map .word ++ .last :: [.word 7] } w answers :=
  ⟨⟨rfl, rfl, rfl, rfl, rfl⟩, ⟨rfl, rfl, rfl, rfl, rfl⟩⟩

/-- `IllegalWordOnlySetsIll`: a word with ORIENT bits and a word with the top reserved bit. -/
theorem witness_illegal_words :
    (Offered (offered 0x0013 []) 0x0013 [] ∧ ∀ i, (0x0013, i) ∉ legalWords) ∧
      Offered (offered 0x8001 []) 0x8001 [] ∧ ∀ i, (0x8001, i) ∉ legalWords := by
  refine ⟨⟨⟨rfl, rfl, rfl, rfl, rfl⟩, fun i h => ?_⟩, ⟨rfl, rfl, rfl, rfl, rfl⟩, fun i h => ?_⟩ <;>
    simp [legalWords] at h

/-- `FrameStartLatchesOperands`. -/
theorem witness_frame_slot :
    (State.reset.withFetchWord 8 0x2A).host = [] ∧ (State.reset.withFetchWord 8 0x2A).fsm = .idle ∧
      (State.reset.withFetchWord 8 0x2A).par.opc.Distinct ∧
      (State.reset.withFetchWord 8 0x2A).framePort
        = some ((State.reset.withFetchWord 8 0x2A).par.opc.opcode .caset) := by decide

/-- The statements about the block's turn, where the host waits: for acceptance (the block takes the word), for BUSY to
fall (an operation runs, or drains), with a second word at a full port, and where it pauses. -/
theorem witness_block_turn_while_the_host_waits :
    (hostTurn { offered 0x0012 [] with host := [.awaitAccept] }
      = .block { offered 0x0012 [] with host := [.awaitAccept] }) ∧
    (hostTurn { offered 0x0013 [] with host := [.awaitAccept, .awaitIdle] }
      = .block { offered 0x0013 [] with host := [.awaitAccept, .awaitIdle] }) ∧
    (hostTurn { running .init 0 (.all 0) [.ok] with host := [.awaitIdle, .regRead 4] }
      = .block { running .init 0 (.all 0) [.ok] with host := [.awaitIdle, .regRead 4] }) ∧
    (hostTurn { running .init 0 (.all 0) [.ok] with cmdPort := some 3, host := [.offerCommand 4] }
      = .block { running .init 0 (.all 0) [.ok] with cmdPort := some 3, host := [.offerCommand 4] }) ∧
    (hostTurn { State.reset.withFetchWord 8 0x2A with host := [.pause, .regRead 4] }
      = .block { State.reset.withFetchWord 8 0x2A with host := [.regRead 4] }) := ⟨rfl, rfl, rfl, rfl, rfl⟩

/-- `TokensAreTakenOnlyInLoopsOrDrain`, with the host waiting for the stream to end. -/
theorem witness_token_taken_while_the_host_waits :
    ∃ t, hostTurn { buffering .wpixb 30 .token [.word 1, .last] [] with host := [.awaitIdle] }
        = .block { buffering .wpixb 30 .token [.word 1, .last] [] with host := [.awaitIdle] } ∧
      Machine.step { buffering .wpixb 30 .token [.word 1, .last] [] with host := [.awaitIdle] } = .next t ∧
      t.pix ≠ [.word 1, .last] := ⟨_, rfl, rfl, by decide⟩

/-- `HostMovesAndWaits`, each clause, the waits on both sides. -/
theorem witness_host_moves :
    State.reset.host = [] ∧ { State.reset with host := [.pause] }.host = .pause :: [] ∧
    ({ offered 1 [] with host := [.offerCommand 2] }.host = .offerCommand 2 :: [] ∧
      { offered 1 [] with host := [.offerCommand 2] }.cmdPort ≠ none) ∧
    ({ State.reset with host := [.offerCommand 2] }.host = .offerCommand 2 :: [] ∧
      { State.reset with host := [.offerCommand 2] }.cmdPort = none) ∧
    { offered 1 [] with host := [.awaitAccept] }.host = .awaitAccept :: [] ∧
    { State.reset with host := [.offerToken .last] }.host = .offerToken .last :: [] ∧
    ({ running .init 0 (.all 0) [] with host := [.awaitIdle] }.host = .awaitIdle :: [] ∧
      { running .init 0 (.all 0) [] with host := [.awaitIdle] }.fsm ≠ .idle) ∧
    { State.reset with host := [.awaitIdle] }.host = .awaitIdle :: [] := by decide

/-- `HostTurnsTouchOnlyThePorts`: a turn of the host that is no reset. -/
theorem witness_host_turn :
    ∃ u, hostTurn { running .init 0 (.all 0) [] with host := [.regWrite 2 7] } = .host u ∧
      { running .init 0 (.all 0) [] with host := [.regWrite 2 7] }.host.head? ≠ some .blockReset :=
  ⟨_, rfl, by decide⟩

/-- `IdleBlockWaitsForACommand`: right after reset, and with the host pausing. -/
theorem witness_idle_block_waits :
    hostTurn State.reset = .block State.reset ∧ State.reset.fsm = .idle ∧ State.reset.framePort = none ∧
      State.reset.cmdPort = none ∧ hostTurn { State.reset with host := [.pause] } = .block State.reset :=
  ⟨rfl, rfl, rfl, rfl, rfl⟩

/-- `DrainStepTakesAtMostOneToken`: each of its three clauses, the host still offering the rest of the stream in one. -/
theorem witness_drain_steps :
    (hostTurn { State.reset with fsm := .drain } = .block { State.reset with fsm := .drain } ∧
      { State.reset with fsm := .drain }.pix = []) ∧
    (hostTurn { State.reset with fsm := .drain, pix := [.word 7], host := [.pause, .offerToken .last] }
        = .block { State.reset with fsm := .drain, pix := [.word 7], host := [.offerToken .last] } ∧
      { State.reset with fsm := .drain, pix := [.word 7], host := [.offerToken .last] }.pix = .word 7 :: []) ∧
    (hostTurn { State.reset with fsm := .drain, pix := [.last], host := [.awaitIdle] }
        = .block { State.reset with fsm := .drain, pix := [.last], host := [.awaitIdle] } ∧
      { State.reset with fsm := .drain, pix := [.last], host := [.awaitIdle] }.pix = .last :: []) :=
  ⟨⟨rfl, rfl⟩, ⟨rfl, rfl⟩, ⟨rfl, rfl⟩⟩

/-- 70_reset R237: the area of a window of one row and of a reversed one, whose axis counts 1 (log 28). -/
theorem test_window_areas : windowArea 0 5 3 5 = 4 ∧ windowArea 50 0 10 3 = 4 := by decide

/-- `BusyBlockLeavesTheOfferedCommand`, `StepAppendsAtMostOneEvent`, `RunningOperationReadsOnlyTheLatch`: a busy block
with another word offered. -/
theorem witness_busy_step :
    ∃ t, { running .init 0 (.all 0) [.ok] with cmdPort := some 0x0003 }.host = [] ∧
      { running .init 0 (.all 0) [.ok] with cmdPort := some 0x0003 }.fsm ≠ .idle ∧
      Machine.step { running .init 0 (.all 0) [.ok] with cmdPort := some 0x0003 } = .next t :=
  ⟨_, rfl, by decide, rfl⟩

/-- `OnlyOffsetWritesTheOffsets`: a step that changes them, by OFFSET and by a block reset. -/
theorem witness_offset_steps :
    (∃ t, Machine.step (running .offset 0 ⟨2, 0, 0, 0⟩ []) = .next t ∧
      t.dx ≠ (running .offset 0 ⟨2, 0, 0, 0⟩ []).dx) ∧
    (∃ t, Machine.step { State.reset with dy := 1, host := [.blockReset] } = .next t ∧ t.dy ≠ 1) :=
  ⟨⟨_, rfl, by decide⟩, ⟨_, rfl, by decide⟩⟩

/-- `TokensAreTakenOnlyInLoopsOrDrain`: a token taken in a loop and one in `DRAIN`. -/
theorem witness_tokens_taken :
    (∃ t, Machine.step (buffering .wpixb 30 .token [.word 1, .last] []) = .next t ∧ t.pix ≠ [.word 1, .last]) ∧
    (∃ t, Machine.step { State.reset with fsm := .drain, err := true, pix := [.last] } = .next t ∧
      t.pix ≠ [.last]) :=
  ⟨⟨_, rfl, by decide⟩, ⟨_, rfl, by decide⟩⟩

/-- `OffsetWritesTheOffsets`. -/
theorem witness_offset_running : (running .offset 0 ⟨2, 1, 0, 0⟩ []).fsm = .run .offset := rfl

/-- The hypotheses of the statements about one event, together: the operation runs, stands at its straight-line
actions, the parameters fit, the event is the one `PC` names, and it is answered OK. -/
def AtEvent (i : Instr) (s : State) (e : Event) : Prop :=
  s.fsm = .run i.op ∧ s.pos = .script ∧ s.par.initParams.Fits ∧ (events i s)[s.pc]? = some e ∧ Answered e s

/-- `InitCompletesEachEvent`: its first event, a delay, and its last. -/
theorem witness_init_events :
    AtEvent .init (running .init 0 (.all 0) [.ok]) (.pin .rst .hi .ok) ∧
    AtEvent .init (running .init 1 (.all 0) []) (.dly 10) ∧
    AtEvent .init (running .init 62 (.all 0) [.ok]) (wr [0x29]) ∧
    AtEvent .init (running .init 63 (.all 0) []) (.dly 200) :=
  ⟨⟨rfl, rfl, by decide, rfl, rfl⟩, ⟨rfl, rfl, by decide, rfl, trivial⟩, ⟨rfl, rfl, by decide, rfl, rfl⟩,
    ⟨rfl, rfl, by decide, rfl, trivial⟩⟩

/-- `OrientCompletesEachEvent`: its first and its last event. -/
theorem witness_orient_events :
    AtEvent (.orient .landscape) (running .orient 0 (.all 0) [.ok]) dc0 ∧
    AtEvent (.orient .landscape) (running .orient 3 (.all 0) [.ok]) (wr [0x60]) :=
  ⟨⟨rfl, rfl, by decide, rfl, rfl⟩, ⟨rfl, rfl, by decide, rfl, rfl⟩⟩

/-- `WindowCompletesEachEvent`: the first and the last event of WINDOW, and the last of CASET and RASET. -/
theorem witness_window_events :
    AtEvent .window (running .window 0 (.all 7) [.ok]) dc0 ∧
    AtEvent .window (running .window 9 (.all 7) [.ok]) (wr [0, 7]) ∧
    AtEvent .caset (running (.frame .caset) 4 (.all 7) [.ok]) (wr [0, 7]) ∧
    AtEvent .raset (running (.frame .raset) 4 (.all 7) [.ok]) (wr [0, 7]) :=
  ⟨⟨rfl, rfl, by decide, rfl, rfl⟩, ⟨rfl, rfl, by decide, rfl, rfl⟩, ⟨rfl, rfl, by decide, rfl, rfl⟩,
    ⟨rfl, rfl, by decide, rfl, rfl⟩⟩

/-- `PixelCompletesEachEvent`: the first and the last event of PIXEL, and the last of RAMWR. -/
theorem witness_pixel_events :
    AtEvent .pixel (running .pixel 0 (.all 7) [.ok]) dc0 ∧
    AtEvent .pixel (running .pixel 13 (.all 7) [.ok]) (wr [0, 7]) ∧
    AtEvent .ramwr (running (.frame .ramwr) 2 (.all 7) [.ok]) dc1 :=
  ⟨⟨rfl, rfl, by decide, rfl, rfl⟩, ⟨rfl, rfl, by decide, rfl, rfl⟩, ⟨rfl, rfl, by decide, rfl, rfl⟩⟩

/-- `BringUpCommandsCompleteEachEvent`: each of the seventeen commands at its last event. -/
theorem witness_bring_up_frames (c : Command) (h : c ∈ bringUpCommands) :
    ∃ e s, s.fsm = .run (.frame c) ∧ s.pos = .script ∧ s.par.initParams.Fits ∧
      s.pc + 1 = (bringUpFrame s.par s.cfg c).length ∧ (bringUpFrame s.par s.cfg c)[s.pc]? = some e ∧
      Answered e s := by
  have last : ∀ c ∈ bringUpCommands, (bringUpFrame defaultParams defaultStraps c).length - 1 + 1
      = (bringUpFrame defaultParams defaultStraps c).length := by decide
  refine ⟨(bringUpFrame defaultParams defaultStraps c).getLastD (.dly 0),
    running (.frame c) ((bringUpFrame defaultParams defaultStraps c).length - 1) (.all 0) [.ok], rfl, rfl,
    (by decide : defaultInitParams.Fits), last c h, ?_, ?_⟩ <;> cases c <;> first | rfl | trivial

/-- `StreamsCompleteEachHeadEvent`: the last event before the tokens, unbuffered and buffered, and an earlier one. -/
theorem witness_stream_heads :
    AtEvent .wpix (running .wpix 2 (.all 7) [.ok]) dc1 ∧
    AtEvent .spixb (running .spixb 12 (.all 7) [.ok]) dc1 ∧
    AtEvent .spix (running .spix 0 (.all 7) [.ok]) dc0 ∧ streams .wpix ∧ streams .spix ∧ streams .spixb :=
  ⟨⟨rfl, rfl, by decide, rfl, rfl⟩, ⟨rfl, rfl, by decide, rfl, rfl⟩, ⟨rfl, rfl, by decide, rfl, rfl⟩,
    .inl rfl, .inr (.inr (.inl rfl)), .inr (.inr (.inr rfl))⟩

/-- `UnbufferedLoopSendsEachWord`: each of its four clauses. -/
theorem witness_unbuffered_loop :
    ({ running .wpix 3 (.all 0) [] with pos := .token }.pos = .token ∧
      { running .wpix 3 (.all 0) [] with pos := .token }.pix = [] ∧
      { running .wpix 3 (.all 0) [] with pos := .token }.fsm = .run .wpix) ∧
    { running .wpix 3 (.all 0) [] with pos := .token, pix := [.word 0xFFFF, .last] }.pix
      = .word 0xFFFF :: [.last] ∧
    { running .spix 14 (.all 0) [.ok] with pos := .write 0 }.nextAnswer = .ok ∧
    { running .spix 13 (.all 0) [] with pos := .token, pix := [.last] }.pix = .last :: [] := by decide

/-- The hypotheses of `FailedEventAbortsTheOperation` together. -/
def AtFailure (i : Instr) (s : State) (e : Event) (k : Nat) (streamOpen : Bool) : Prop :=
  (streamOpen = true ↔ streams i) ∧ s.fsm = .run i.op ∧ s.pos = .script ∧ s.par.initParams.Fits ∧
    (events i s)[s.pc]? = some e ∧ fallible e = true ∧ s.nextAnswer = .fail k

/-- `FailedEventAbortsTheOperation`: the first and the last fallible event, with and without a stream. -/
theorem witness_failing_events :
    AtFailure .init (running .init 0 (.all 0) [.fail 0]) (.pin .rst .hi .ok) 0 false ∧
    AtFailure .init (running .init 62 (.all 0) [.fail 1]) (wr [0x29]) 1 false ∧
    AtFailure .spix (running .spix 0 (.all 0) [.fail 0]) dc0 0 true ∧
    AtFailure .caset (running (.frame .caset) 4 (.all 0) [.fail 2]) (wr [0, 0]) 2 false :=
  ⟨⟨by simp [streams], rfl, rfl, by decide, rfl, rfl, rfl⟩, ⟨by simp [streams], rfl, rfl, by decide, rfl, rfl, rfl⟩,
    ⟨by simp [streams], rfl, rfl, by decide, rfl, rfl, rfl⟩, ⟨by simp [streams], rfl, rfl, by decide, rfl, rfl, rfl⟩⟩

/-- `DrainDiscardsTheStreamUpToItsEnd`: two words to discard, and none. -/
theorem witness_draining :
    { State.reset with fsm := .drain, pix := [.word 1, .word 2, .last, .word 3] }.host = [] ∧
    { State.reset with fsm := .drain, pix := [.word 1, .word 2, .last, .word 3] }.pix
      = [1, 2].map .word ++ .last :: [.word 3] ∧
    { State.reset with fsm := .drain, pix := [.last] }.pix = ([] : List Word).map .word ++ .last :: [] := by decide

/-- `InitAbortsAtTheFailedEvent`: the first event (V-INIT-101) and event 63 (V-INIT-163). -/
theorem witness_init_abort :
    (defaultInitParams.Fits ∧ (initEvents defaultParams defaultStraps)[0]? = some (.pin .rst .hi .ok) ∧
      Offered (offered 0x0001 [.fail 0]) 0x0001
        (List.replicate (((initEvents defaultParams defaultStraps).take 0).countP fallible) .ok ++ [.fail 0])) ∧
    ((initEvents defaultParams defaultStraps)[62]? = some (wr [0x29]) ∧ fallible (wr [0x29]) = true ∧
      Offered (offered 0x0001 (List.replicate 58 .ok ++ [.fail 0])) 0x0001
        (List.replicate (((initEvents defaultParams defaultStraps).take 62).countP fallible) .ok ++ [.fail 0])) :=
  ⟨⟨by decide, rfl, ⟨rfl, rfl, rfl, rfl, rfl⟩⟩, ⟨rfl, rfl, ⟨rfl, rfl, rfl, rfl, rfl⟩⟩⟩

/-- `RegisterReadsFollowTheMap`, `RegisterWritesReachOnlyTheOperands`: mapped and unmapped addresses at the ends of
the map. -/
theorem witness_register_port :
    (({ State.reset with host := [.regRead 9] }.host = .regRead 9 :: []) ∧
      { State.reset with host := [.regRead 10, .pause] }.host = .regRead 10 :: [.pause]) ∧
    (({ State.reset with host := [.regWrite 3 7] }.host = .regWrite 3 7 :: []) ∧
      { State.reset with host := [.regWrite 4 7] }.host = .regWrite 4 7 :: []) := by decide

/-- `ResetAbandonsTheOperation`: a reset in the middle of INIT. -/
theorem witness_reset_of_a_busy_block :
    { running .init 30 (.all 0) [.ok] with host := [.blockReset] }.host = .blockReset :: [] := rfl

/-- `FillIsTheBufferedStreamOfItsColour`: the widest rectangle and a single pixel. -/
theorem witness_fill :
    (AsmLine.fill 0 0 0xFFFF 0xFFFF 1).wellFormed = true ∧ (AsmLine.fill 0xFFFF 0 0xFFFF 0 1).wellFormed = true := by
  decide

end Sys2Proof.Tests
end

/-! The block's turn and the host's, each by cases, and what one step of a running operation can do. -/

namespace Sys2Proof.Machine

open Sys2Proof.Spec

/-! ### The block's move, by the sequencer's state -/

/-- A running operation other than OFFSET takes the next step of its own script and token loop. -/
theorem exec_op {op : Op} {s : State} (hf : s.fsm = .run op) (hop : op ≠ .offset) :
    exec (op.instr s.latchedMode) s = runStep (opScript op s) (opTail op) s := by
  have hi : op.instr s.latchedMode ≠ .offset := fun e => hop ((Op.instr_op op _).symm.trans (congrArg Instr.op e))
  rw [exec_running hf hi, instrScript_instr, Op.instr_op]

theorem blockStep_run {op : Op} {s : State} (hf : s.fsm = .run op) (hop : op ≠ .offset) :
    blockStep s = runStep (opScript op s) (opTail op) s := by
  rw [blockStep, fetch_running hf, ← exec_op hf hop]

theorem blockStep_offset {s : State} (hf : s.fsm = .run .offset) :
    blockStep s = .next (finish (writeOffset s)) := by
  rw [blockStep, fetch_running hf]
  exact exec_offset_running hf

theorem blockStep_drain {s : State} (hf : s.fsm = .drain) : blockStep s = .next (drainToken s) := by
  rw [blockStep, fetch_drain hf]

/-- The four things a block can do in its turn, by `FSM` (10_state R28): idle, it waits, starts an instruction or refuses
a word; it ends OFFSET; it takes a step of another operation; it drains. -/
theorem blockStep_by_fsm {s t : State} (h : blockStep s = .next t) :
    (s.fsm = .idle ∧ (t = s ∨ t = illegalCommand s ∨ ∃ i, fetch s = .instr i ∧ t = startOf i s)) ∨
    (s.fsm = .run .offset ∧ t = finish (writeOffset s)) ∨
    (∃ op, s.fsm = .run op ∧ op ≠ .offset ∧ runStep (opScript op s) (opTail op) s = .next t) ∨
    (s.fsm = .drain ∧ t = drainToken s) := by
  cases hf : s.fsm with
  | idle =>
    refine .inl ⟨rfl, ?_⟩
    rcases blockStep_cases h with ⟨-, rfl⟩ | ⟨i, hi, he⟩ | ⟨-, rfl⟩ | ⟨hd, -⟩
    · exact .inl rfl
    · rw [exec_idle i hf] at he
      injection he with he
      exact .inr (.inr ⟨i, hi, he.symm⟩)
    · exact .inr (.inl rfl)
    · have hne : fetch s ≠ .drain := by unfold fetch; grind
      exact absurd hd hne
  | run op =>
    by_cases hop : op = .offset
    · subst hop
      rw [blockStep_offset hf] at h
      injection h with h
      exact .inr (.inl ⟨rfl, h.symm⟩)
    · exact .inr (.inr (.inl ⟨op, rfl, hop, blockStep_run hf hop ▸ h⟩))
  | drain =>
    rw [blockStep_drain hf] at h
    injection h with h
    exact .inr (.inr (.inr ⟨rfl, h.symm⟩))

/-! ### The host's move -/

/-- The host's own move is a block reset, or writes `ARG`, the ports and the last reply alone (log 18). -/
theorem hostTurn_host {s u : State} (h : hostTurn s = .host u) :
    (s.host.head? = some .blockReset ∧ u = blockReset { s with host := s.host.tail }) ∨
    (s.host.head? ≠ some .blockReset ∧
      u = { s with arg := u.arg, cmdPort := u.cmdPort, pix := u.pix, rdata := u.rdata, host := s.host.tail }) := by
  unfold hostTurn at h
  split at h
  · cases h
  · rename_i a rest hs
    rw [hs]
    cases a <;> simp only at h
    case blockReset => injection h with h; exact .inl ⟨rfl, h.symm⟩
    case regWrite addr v =>
      injection h with h
      refine .inr ⟨by simp, ?_⟩
      subst h
      unfold State.writeReg
      split <;> rfl
    case regRead | offerToken => injection h with h; subst h; exact .inr ⟨by simp, rfl⟩
    case pause => cases h
    case offerCommand | awaitAccept =>
      split at h
      · injection h with h; subst h; exact .inr ⟨by simp, rfl⟩
      · cases h
    case awaitIdle =>
      split at h
      · cases h
      · injection h with h; subst h; exact .inr ⟨by simp, rfl⟩

/-! ### One step of a running operation -/

/-- A step of a running operation is that of the position it stands at. -/
theorem runStep_cases {script : List Action} {tail : Tail} {s t : State} (h : runStep script tail s = .next t) :
    (s.pos = .script ∧ t = scriptStep script tail s) ∨
    (s.pos = .token ∧
      ((tail = .fifo ∧ fifoToken s = .next t) ∨ (tail = .words ∧ t = wordsToken s) ∨
        (tail = .ends ∧ t = finish s))) ∨
    (∃ w, s.pos = .write w ∧ t = writeStep w s) ∨
    (∃ last, s.pos = .flush last ∧ flushStep last s = .next t) := by
  unfold runStep at h
  split at h
  · rename_i hp; injection h with h; exact .inl ⟨hp, h.symm⟩
  · rename_i hp
    refine .inr (.inl ⟨hp, ?_⟩)
    split at h
    · exact .inl ⟨rfl, h⟩
    · injection h with h; exact .inr (.inl ⟨rfl, h.symm⟩)
    · injection h with h; exact .inr (.inr ⟨rfl, h.symm⟩)
  · rename_i w hp; injection h with h; exact .inr (.inr (.inl ⟨w, hp, h.symm⟩))
  · rename_i last hp; exact .inr (.inr (.inr ⟨last, hp, h⟩))

/-- What one step of an operation with these actions and this token loop can do to the sequencer, the trace, the token
port, `RST_Q` and the pixel FIFO. -/
structure RunEffect (script : List Action) (tail : Tail) (s t : State) : Prop where
  fsm : t.fsm = s.fsm ∨ t.fsm = .drain ∨ t.fsm = .idle
  /-- at most one event -/
  tr : t.tr = s.tr ∨ ∃ e, t.tr = s.tr ++ [e]
  /-- a token leaves the port only in a token loop, and with no event -/
  pix : t.pix = s.pix ∨ (s.pos = .token ∧ tail ≠ .ends ∧ t.pix = s.pix.tail ∧ t.tr = s.tr)
  /-- `RST_Q` is the script's to drive -/
  rstQ : (∀ a ∈ script, ∀ v, a ≠ .drive .rst v) → t.rstQ = s.rstQ
  /-- the pixel FIFO belongs to the buffered loop -/
  fifo : tail ≠ .fifo → (∀ last, s.pos ≠ .flush last) → t.idx = s.idx ∧ t.buf = s.buf

theorem busError_fsm (b : Bool) (s : State) : (busError b s).fsm = .drain ∨ (busError b s).fsm = .idle := by
  cases b
  · exact .inr rfl
  · exact .inl rfl

theorem endScript_effect (script : List Action) (tail : Tail) (s : State) :
    RunEffect script tail s (endScript tail s) := by
  cases tail with
  | ends => exact ⟨.inr (.inr rfl), .inl rfl, .inl rfl, fun _ => rfl, fun _ _ => ⟨rfl, rfl⟩⟩
  | words => exact ⟨.inl rfl, .inl rfl, .inl rfl, fun _ => rfl, fun _ _ => ⟨rfl, rfl⟩⟩
  | fifo => exact ⟨.inl rfl, .inl rfl, .inl rfl, fun _ => rfl, fun h => absurd rfl h⟩

/-- An action followed by a change that adds no event, takes no token and leaves `RST_Q` alone. -/
theorem RunEffect.of_performed {script : List Action} {tail : Tail} {a : Action} {s u t : State} {b : Bool}
    (ha : a ∈ script ∨ ∃ bs, a = .xfer bs) (hp : perform a s = (u, b))
    (hfsm : t.fsm = u.fsm ∨ t.fsm = .drain ∨ t.fsm = .idle) (htr : t.tr = u.tr) (hpix : t.pix = u.pix)
    (hrst : t.rstQ = u.rstQ)
    (hfifo : tail ≠ .fifo → (∀ last, s.pos ≠ .flush last) → t.idx = u.idx ∧ t.buf = u.buf) :
    RunEffect script tail s t := by
  obtain ⟨-, ufsm, -, ubuf, uidx, -, upix⟩ := performed_seq hp
  refine ⟨ufsm ▸ hfsm, htr ▸ performed_tr hp, .inl (hpix.trans upix), fun hs => ?_, fun h1 h2 => ?_⟩
  · have hna : ∀ v, a ≠ .drive .rst v := by
      rcases ha with ha | ⟨bs, rfl⟩
      · exact hs a ha
      · simp
    have := perform_rstQ s hna
    rw [hp] at this
    exact hrst.trans this
  · obtain ⟨hi, hb⟩ := hfifo h1 h2
    exact ⟨hi.trans uidx, hb.trans ubuf⟩

theorem scriptStep_effect (script : List Action) (tail : Tail) (s : State) :
    RunEffect script tail s (scriptStep script tail s) := by
  rcases scriptStep_cases script tail s with ⟨-, h⟩ | ⟨a, u, b, ha, hp, ⟨-, -, h⟩ | ⟨-, -, h⟩ | ⟨-, h⟩⟩ <;> rw [h]
  · exact endScript_effect _ _ _
  all_goals have hm : a ∈ script ∨ ∃ bs, a = .xfer bs := .inl (List.mem_of_getElem? ha)
  · exact .of_performed hm hp (.inl rfl) rfl rfl rfl fun _ _ => ⟨rfl, rfl⟩
  · cases tail with
    | ends => exact .of_performed hm hp (.inr (.inr rfl)) rfl rfl rfl fun _ _ => ⟨rfl, rfl⟩
    | words => exact .of_performed hm hp (.inl rfl) rfl rfl rfl fun _ _ => ⟨rfl, rfl⟩
    | fifo => exact .of_performed hm hp (.inl rfl) rfl rfl rfl fun h => absurd rfl h
  · exact .of_performed hm hp (.inr (busError_fsm _ _)) rfl rfl rfl fun _ _ => ⟨rfl, rfl⟩

theorem writeStep_effect (script : List Action) (tail : Tail) (w : Word) (s : State) :
    RunEffect script tail s (writeStep w s) := by
  obtain ⟨u, b, hp, ⟨-, h⟩ | ⟨-, h⟩⟩ := writeStep_cases w s <;> rw [h]
  · exact .of_performed (.inr ⟨_, rfl⟩) hp (.inl rfl) rfl rfl rfl fun _ _ => ⟨rfl, rfl⟩
  · exact .of_performed (.inr ⟨_, rfl⟩) hp (.inr (busError_fsm _ _)) rfl rfl rfl fun _ _ => ⟨rfl, rfl⟩

theorem flushStep_effect (script : List Action) (tail : Tail) {last : Bool} {s t : State} (hpos : s.pos = .flush last)
    (h : flushStep last s = .next t) : RunEffect script tail s t := by
  obtain ⟨bs, u, b, -, hp, ⟨-, -, rfl⟩ | ⟨-, -, rfl⟩ | ⟨-, rfl⟩⟩ := flushStep_cases h
  · exact .of_performed (.inr ⟨_, rfl⟩) hp (.inr (.inr rfl)) rfl rfl rfl fun _ hn => absurd hpos (hn last)
  · exact .of_performed (.inr ⟨_, rfl⟩) hp (.inl rfl) rfl rfl rfl fun _ hn => absurd hpos (hn last)
  · exact .of_performed (.inr ⟨_, rfl⟩) hp (.inr (busError_fsm _ _)) rfl rfl rfl fun _ _ => ⟨rfl, rfl⟩

theorem wordsToken_effect (script : List Action) {s : State} (hpos : s.pos = .token) :
    RunEffect script .words s (wordsToken s) := by
  unfold wordsToken
  split
  · exact ⟨.inl rfl, .inl rfl, .inl rfl, fun _ => rfl, fun _ _ => ⟨rfl, rfl⟩⟩
  · rename_i w rest hx
    exact ⟨.inl rfl, .inl rfl, .inr ⟨hpos, by decide, by rw [hx]; rfl, rfl⟩, fun _ => rfl, fun _ _ => ⟨rfl, rfl⟩⟩
  · rename_i rest hx
    exact ⟨.inr (.inr rfl), .inl rfl, .inr ⟨hpos, by decide, by rw [hx]; rfl, rfl⟩, fun _ => rfl,
      fun _ _ => ⟨rfl, rfl⟩⟩

theorem fifoToken_effect (script : List Action) {s t : State} (hpos : s.pos = .token) (h : fifoToken s = .next t) :
    RunEffect script .fifo s t := by
  rcases fifoToken_cases h with ⟨-, rfl⟩ | ⟨w, rest, m, hx, -, rfl⟩ | ⟨rest, hx, -, rfl⟩ | ⟨rest, hx, -, rfl⟩
  · exact ⟨.inl rfl, .inl rfl, .inl rfl, fun _ => rfl, fun hn => absurd rfl hn⟩
  · exact ⟨.inl rfl, .inl rfl, .inr ⟨hpos, by decide, by rw [hx]; rfl, rfl⟩, fun _ => rfl, fun hn => absurd rfl hn⟩
  · exact ⟨.inr (.inr rfl), .inl rfl, .inr ⟨hpos, by decide, by rw [hx]; rfl, rfl⟩, fun _ => rfl,
      fun hn => absurd rfl hn⟩
  · exact ⟨.inl rfl, .inl rfl, .inr ⟨hpos, by decide, by rw [hx]; rfl, rfl⟩, fun _ => rfl, fun hn => absurd rfl hn⟩

/-- Every step of a running operation has such an effect. -/
theorem runStep_effect {script : List Action} {tail : Tail} {s t : State} (h : runStep script tail s = .next t) :
    RunEffect script tail s t := by
  rcases runStep_cases h with ⟨-, rfl⟩ | ⟨hpos, ⟨rfl, ht⟩ | ⟨rfl, rfl⟩ | ⟨rfl, rfl⟩⟩ | ⟨w, -, rfl⟩ | ⟨last, hpos, ht⟩
  · exact scriptStep_effect _ _ _
  · exact fifoToken_effect _ hpos ht
  · exact wordsToken_effect _ hpos
  · exact endScript_effect _ .ends s
  · exact writeStep_effect _ _ _ _
  · exact flushStep_effect _ _ hpos ht

/-- What a drained token changes: the port by its first token, and `FSM` at END; no event (60_exceptions R202). -/
theorem drainToken_effect (s : State) :
    ((drainToken s).fsm = s.fsm ∨ (drainToken s).fsm = .idle) ∧ (drainToken s).tr = s.tr ∧
      ((drainToken s).pix = s.pix ∨ (drainToken s).pix = s.pix.tail) ∧ (drainToken s).rstQ = s.rstQ ∧
      (drainToken s).idx = s.idx ∧ (drainToken s).buf = s.buf := by
  unfold drainToken
  split
  · exact ⟨.inl rfl, rfl, .inl rfl, rfl, rfl, rfl⟩
  · rename_i w rest hx
    exact ⟨.inl rfl, rfl, .inr (by rw [hx]; rfl), rfl, rfl, rfl⟩
  · rename_i rest hx
    exact ⟨.inr rfl, rfl, .inr (by rw [hx]; rfl), rfl, rfl, rfl⟩

end Sys2Proof.Machine

/-! The actions of the scripts, the legal command words, and the start each instruction makes. -/

namespace Sys2Proof.Machine

open Sys2Proof.Spec

/-! ### The actions of the scripts -/

/-- An action of a command frame: a drive of D/C, a write of 1 to 32 bytes (20_memory R59), or a delay. -/
def Action.InFrame : Action → Prop
  | .drive l _ => l = .dc
  | .xfer bs => 1 ≤ bs.length ∧ bs.length ≤ fifoBytes
  | .delay _ => True

/-- An action whose write, if it is one, carries 1 to 32 bytes (20_memory R59). -/
def Action.WidthOk : Action → Prop
  | .drive _ _ => True
  | .xfer bs => 1 ≤ bs.length ∧ bs.length ≤ fifoBytes
  | .delay _ => True

theorem Action.InFrame.widthOk {a : Action} (h : a.InFrame) : a.WidthOk := by
  cases a with
  | drive | delay => trivial
  | xfer => exact h

theorem Action.InFrame.ne_reset {a : Action} (h : a.InFrame) (v : Level) : a ≠ .drive .rst v := by
  rintro rfl
  cases h

theorem wordBytes_widthOk (w : Word) : (Action.xfer (wordBytes w)).WidthOk := by
  simp [Action.WidthOk, wordBytes, fifoBytes]

theorem inFrame_writeCommand (opc : OpcTable) (c : Command) {ps : List Byte} (h : ps.length ≤ fifoBytes) :
    ∀ a ∈ writeCommand opc c ps, a.InFrame := by
  cases ps with
  | nil => simp [writeCommand, Action.InFrame]
  | cons p ps => simpa [writeCommand, Action.InFrame] using h

theorem inFrame_writeWord (w : Word) : ∀ a ∈ writeWord w, a.InFrame := by
  simp [writeWord, wordBytes, Action.InFrame, fifoBytes]

theorem inFrame_startData : ∀ a ∈ startData, a.InFrame := by simp [startData, Action.InFrame]

theorem inFrame_columnFrame (s : State) (x0 x1 : Word) : ∀ a ∈ columnFrame s x0 x1, a.InFrame := by
  simp only [columnFrame, List.forall_mem_append]
  exact ⟨⟨⟨inFrame_writeCommand _ _ (by simp), inFrame_startData⟩, inFrame_writeWord _⟩, inFrame_writeWord _⟩

theorem inFrame_rowFrame (s : State) (y0 y1 : Word) : ∀ a ∈ rowFrame s y0 y1, a.InFrame := by
  simp only [rowFrame, List.forall_mem_append]
  exact ⟨⟨⟨inFrame_writeCommand _ _ (by simp), inFrame_startData⟩, inFrame_writeWord _⟩, inFrame_writeWord _⟩

theorem inFrame_setWindow (s : State) (sx sy ex ey : Word) : ∀ a ∈ setWindow s sx sy ex ey, a.InFrame := by
  simp only [setWindow, List.forall_mem_append]
  exact ⟨inFrame_columnFrame _ _ _, inFrame_rowFrame _ _ _⟩

theorem inFrame_ramwrScript (s : State) : ∀ a ∈ ramwrScript s, a.InFrame := by
  simp only [ramwrScript, List.forall_mem_append]
  exact ⟨inFrame_writeCommand _ _ (by simp), inFrame_startData⟩

theorem inFrame_pixelScript (s : State) : ∀ a ∈ pixelScript s, a.InFrame := by
  simp only [pixelScript, List.forall_mem_append]
  exact ⟨⟨inFrame_setWindow _ _ _ _ _, inFrame_ramwrScript s⟩, inFrame_writeWord _⟩

theorem inFrame_windowedScript (s : State) : ∀ a ∈ windowedScript s, a.InFrame := by
  simp only [windowedScript, List.forall_mem_append]
  exact ⟨inFrame_setWindow _ _ _ _ _, inFrame_ramwrScript s⟩

/-- A frame without parameters and the settle delay of its bring-up step. -/
theorem inFrame_settled (opc : OpcTable) (c : Command) (ms : Byte) :
    ∀ a ∈ writeCommand opc c [] ++ [.delay ms], a.InFrame := by
  simp [writeCommand, Action.InFrame]

/-- Every command frame of the catalog, where the parameters fit (30_encoding R77, 42_bringup R132). -/
theorem inFrame_commandScript {s : State} (hf : s.par.initParams.Fits) (c : Command) :
    ∀ a ∈ commandScript c s, a.InFrame := by
  have fits : ∀ l ∈ s.par.initParams.entries, l.length ≤ fifoBytes := fun l hl => (hf l hl).2
  cases c with
  | swreset | slpout | dispon => exact inFrame_settled _ _ _
  | invoff | invon => exact inFrame_writeCommand _ _ (ps := []) (by decide)
  | madctl => exact inFrame_writeCommand _ _ (ps := [_]) (by simp [fifoBytes])
  | caset => exact inFrame_columnFrame _ _ _
  | raset => exact inFrame_rowFrame _ _ _
  | ramwr => exact inFrame_ramwrScript s
  | frmctr1 | frmctr2 | frmctr3 | invctr | pwctr1 | pwctr2 | pwctr3 | pwctr4 | pwctr5 | vmctr1 | colmod =>
    exact inFrame_writeCommand _ _ (fits _ (by simp [InitParams.entries]))

/-- An instruction is its operation under some mode. -/
theorem exists_eq_op_instr (i : Instr) : ∃ m, i = i.op.instr m := by
  cases i with
  | orient m => exact ⟨m, rfl⟩
  | _ => exact ⟨.portrait, rfl⟩

theorem instrScript_command (c : Command) (s : State) : instrScript c.instr s = commandScript c s := by
  cases c <;> rfl

/-- Every instruction but INIT sends whole command frames and no drive of the reset line (42_bringup R131). -/
theorem inFrame_instrScript {i : Instr} {s : State} (hf : s.par.initParams.Fits) (hi : i ≠ .init) :
    ∀ a ∈ instrScript i s, a.InFrame := by
  obtain ⟨m, hm⟩ := exists_eq_op_instr i
  generalize i.op = op at hm
  subst hm
  cases op with
  | init => exact absurd rfl hi
  | orient => exact inFrame_writeCommand _ _ (ps := [_]) (by simp [fifoBytes])
  | offset => exact fun a ha => absurd ha List.not_mem_nil
  | window => exact inFrame_setWindow _ _ _ _ _
  | pixel => exact inFrame_pixelScript s
  | wpix | wpixb => exact inFrame_ramwrScript s
  | spix | spixb => exact inFrame_windowedScript s
  | frame c => exact instrScript_command c s ▸ inFrame_commandScript hf c

theorem widthOk_initScript {s : State} (hf : s.par.initParams.Fits) : ∀ a ∈ initScript s, a.WidthOk := by
  have reset : ∀ a ∈ hardReset, a.WidthOk := by simp [hardReset, Action.WidthOk]
  have frame (c : Command) : ∀ a ∈ commandScript c s, a.WidthOk := fun a ha => (inFrame_commandScript hf c a ha).widthOk
  have inversion : ∀ a ∈ inversionScript s, a.WidthOk := by
    unfold inversionScript
    split
    · exact frame .invon
    · exact frame .invoff
  simp only [initScript, List.forall_mem_append]
  exact ⟨⟨⟨⟨⟨⟨⟨⟨⟨⟨⟨⟨⟨⟨⟨⟨reset, frame .swreset⟩, frame .slpout⟩, frame .frmctr1⟩, frame .frmctr2⟩, frame .frmctr3⟩,
    frame .invctr⟩, frame .pwctr1⟩, frame .pwctr2⟩, frame .pwctr3⟩, frame .pwctr4⟩, frame .pwctr5⟩, frame .vmctr1⟩,
    inversion⟩, frame .madctl⟩, frame .colmod⟩, frame .dispon⟩

/-- 20_memory R59, for every operation's own writes. -/
theorem widthOk_opScript {s : State} (hf : s.par.initParams.Fits) (op : Op) : ∀ a ∈ opScript op s, a.WidthOk := by
  by_cases hop : op = .init
  · subst hop
    exact widthOk_initScript hf
  · rw [← instrScript_instr]
    refine fun a ha => (inFrame_instrScript hf ?_ a ha).widthOk
    exact fun e => hop ((Op.instr_op op _).symm.trans (congrArg Instr.op e))

theorem writeCommand_length_pos (opc : OpcTable) (c : Command) (ps : List Byte) :
    0 < (writeCommand opc c ps).length := by
  cases ps <;> simp [writeCommand]

/-- Every operation but OFFSET has an action. -/
theorem opScript_length_pos (s : State) {op : Op} (hop : op ≠ .offset) : 0 < (opScript op s).length := by
  have ramwr : 0 < (ramwrScript s).length := by simp [ramwrScript, startData]
  have column (x y : Word) : 0 < (columnFrame s x y).length := by simp [columnFrame, startData]
  have row (x y : Word) : 0 < (rowFrame s x y).length := by simp [rowFrame, startData]
  have window (x y z w : Word) : 0 < (setWindow s x y z w).length := by
    rw [setWindow, List.length_append]
    exact Nat.add_pos_left (column _ _) _
  cases op with
  | offset => exact absurd rfl hop
  | init => simp [opScript, initScript, hardReset]
  | orient => exact writeCommand_length_pos s.par.opc .madctl [_]
  | window => exact window _ _ _ _
  | pixel => simp [opScript, pixelScript, writeWord]
  | wpix | wpixb => exact ramwr
  | spix | spixb =>
    show 0 < (windowedScript s).length
    rw [windowedScript, List.length_append]
    exact Nat.add_pos_right _ ramwr
  | frame c =>
    cases c with
    | caset => exact column _ _
    | raset => exact row _ _
    | ramwr => exact ramwr
    | swreset | slpout | dispon =>
      simp [opScript, commandScript, swresetScript, slpoutScript, disponScript]
    | invoff => exact writeCommand_length_pos s.par.opc .invoff []
    | invon => exact writeCommand_length_pos s.par.opc .invon []
    | madctl => exact writeCommand_length_pos s.par.opc .madctl [_]
    | _ => exact writeCommand_length_pos _ _ _

/-! ### The legal words and the starts -/

/-- Every legal word decodes, to its row's instruction (30_encoding R80). -/
theorem decodeCommand_of_legal {w : Word} {i : Instr} (h : (w, i) ∈ legalWords) : decodeCommand w = .instr i := by
  have table : ∀ p ∈ legalWords, decodeCommand p.1 = .instr p.2 := by decide
  exact table _ h

theorem startOf_of_legal {w : Word} {i : Instr} (h : (w, i) ∈ legalWords) (s : State) :
    startOf i s = accepted w i.op s := by
  simp only [legalWords, List.mem_cons, Prod.mk.injEq, List.not_mem_nil, or_false] at h
  rcases h with ⟨rfl, rfl⟩ | ⟨rfl, rfl⟩ | ⟨rfl, rfl⟩ | ⟨rfl, rfl⟩ | ⟨rfl, rfl⟩ | ⟨rfl, rfl⟩ | ⟨rfl, rfl⟩ | ⟨rfl, rfl⟩ |
    ⟨rfl, rfl⟩ | ⟨rfl, rfl⟩ | ⟨rfl, rfl⟩ | ⟨rfl, rfl⟩ <;> rfl

/-- An instruction has a legal command word or is a frame's. -/
theorem exists_legal_or_command (i : Instr) : (∃ w, (w, i) ∈ legalWords) ∨ ∃ c, i = Command.instr c := by
  obtain ⟨m, hm⟩ := exists_eq_op_instr i
  generalize i.op = op at hm
  subst hm
  cases op with
  | frame c => exact .inr ⟨c, rfl⟩
  | orient => exact .inl ⟨Op.word .orient m, by cases m <;> decide⟩
  | init => exact .inl ⟨0x0001, by simp [legalWords, Op.instr]⟩
  | offset => exact .inl ⟨0x0003, by simp [legalWords, Op.instr]⟩
  | window => exact .inl ⟨0x0004, by simp [legalWords, Op.instr]⟩
  | pixel => exact .inl ⟨0x0005, by simp [legalWords, Op.instr]⟩
  | wpix => exact .inl ⟨0x0006, by simp [legalWords, Op.instr]⟩
  | wpixb => exact .inl ⟨0x0007, by simp [legalWords, Op.instr]⟩
  | spix => exact .inl ⟨0x0008, by simp [legalWords, Op.instr]⟩
  | spixb => exact .inl ⟨0x0009, by simp [legalWords, Op.instr]⟩

theorem State.latchOk_of_decode {s : State} {op : Op} (h : decodeCommand s.opl.cmd = .instr (op.instr s.latchedMode)) :
    s.LatchOk op := by
  cases op with
  | frame c => trivial
  | _ => exact h

/-- A start latches the instruction's own command word, or (a frame run by itself) none (10_state R38; log 10). -/
theorem startOf_latchOk (i : Instr) (s : State) : (startOf i s).LatchOk i.op := by
  rcases exists_legal_or_command i with ⟨w, h⟩ | ⟨c, rfl⟩
  · have mode : ∀ p ∈ legalWords, p.2 = p.2.op.instr (Mode.ofBits (orientField p.1)) := by decide
    rw [startOf_of_legal h]
    exact State.latchOk_of_decode ((decodeCommand_of_legal h).trans (congrArg Decoded.instr (mode _ h)))
  · rw [Command.instr_op]
    trivial
end Sys2Proof.Machine

/-! The machine invariant: every step keeps it, and under it no step stops. -/

namespace Sys2Proof.Machine

open Sys2Proof.Spec

/-! ### A running operation under the invariant, its place left out -/

/-- All of the invariant that holds while `op` runs, but for where it stands. Changing `PC`, the place or a port keeps
it, so a step is followed through its parts with it, and `PlaceOk` is shown of the state the step ends in. -/
structure State.Runs (s : State) (op : Op) : Prop where
  params  : s.par.WellFormed
  bufForm : s.buf.wf
  idxEven : s.idx % 2 = 0
  idxTop  : s.idx ≤ fifoBytes
  slot    : ∀ b, s.framePort = some b → ∃ c, s.par.opc.opcode c = b
  widths  : ∀ e ∈ s.tr, e.WidthOk
  fsm     : s.fsm = .run op
  err     : s.err = false
  ill     : s.ill = false
  latch   : s.LatchOk op

theorem State.Inv.runs {s : State} {op : Op} (h : s.Inv) (hf : s.fsm = .run op) : s.Runs op := by
  have hs : s.StatusOk := h.status
  unfold State.StatusOk at hs
  rw [hf] at hs
  exact { h with fsm := hf, err := hs.1, ill := hs.2, latch := h.latch op hf }

section Runs

variable {s : State} {op : Op}

theorem State.Runs.inv (h : s.Runs op) (hp : s.PlaceOk op) : s.Inv where
  params := h.params
  bufForm := h.bufForm
  idxEven := h.idxEven
  idxTop := h.idxTop
  status := by
    unfold State.StatusOk
    rw [h.fsm]
    exact ⟨h.err, h.ill⟩
  place op' hf := by
    rw [h.fsm] at hf
    injection hf with hf
    exact hf ▸ hp
  rest hn := absurd h.fsm (hn op)
  latch op' hf := by
    rw [h.fsm] at hf
    injection hf with hf
    exact hf ▸ h.latch
  slot := h.slot
  widths := h.widths

/-- The operation ends: the block is idle with both flags clear. -/
theorem State.Runs.finish (h : s.Runs op) : (finish s).Inv where
  params := h.params
  bufForm := h.bufForm
  idxEven := h.idxEven
  idxTop := h.idxTop
  status := fun hs => absurd (h.err.symm.trans hs.1) (by decide)
  place _ hf := by cases hf
  rest _ := rfl
  latch _ hf := by cases hf
  slot := h.slot
  widths := h.widths

/-- The operation is abandoned: the block is idle or drains, with `ERR` alone set (60_exceptions R202, R204). -/
theorem State.Runs.busError (h : s.Runs op) (streamOpen : Bool) : (busError streamOpen s).Inv where
  params := h.params
  bufForm := h.bufForm
  idxEven := h.idxEven
  idxTop := h.idxTop
  status := by
    cases streamOpen
    · exact fun hs => absurd (h.ill.symm.trans hs.2) (by decide)
    · exact ⟨rfl, h.ill⟩
  place _ hf := by cases streamOpen <;> cases hf
  rest _ := rfl
  latch _ hf := by cases streamOpen <;> cases hf
  slot := h.slot
  widths := h.widths

/-- An event keeps the width of the trace's writes when its action's width is right. -/
theorem perform_widths {a : Action} (ha : a.WidthOk) (hw : ∀ e ∈ s.tr, e.WidthOk) :
    ∀ e ∈ (perform a s).1.tr, e.WidthOk := by
  cases a with
  | drive l v =>
    cases hn : s.nextAnswer <;> simp only [perform, hn, State.setLine_tr, State.emit_tr, State.takeAnswer_tr,
      List.forall_mem_append, List.forall_mem_singleton] <;> exact ⟨hw, trivial⟩
  | xfer bs =>
    cases bs with
    | nil => exact hw
    | cons b bs =>
      have hb : ∀ r, (Event.wr (b :: bs) r).WidthOk := fun _ => ha
      cases hn : s.nextAnswer <;> simp only [perform, hn, State.deliver_tr, State.emit_tr, State.takeAnswer_tr,
        List.forall_mem_append, List.forall_mem_singleton] <;> exact ⟨hw, hb _⟩
  | delay ms => exact List.forall_mem_append.2 ⟨hw, List.forall_mem_singleton.2 trivial⟩

theorem State.Runs.performed {a : Action} {t : State} {b : Bool} (h : s.Runs op) (ha : a.WidthOk)
    (hp : perform a s = (t, b)) : t.Runs op := by
  have hk := performed_kept hp
  obtain ⟨herr, hfsm, -, hbuf, hidx, -, -⟩ := performed_seq hp
  have hw := perform_widths ha h.widths
  rw [hp] at hw
  refine ⟨hk.par ▸ h.params, hbuf ▸ h.bufForm, hidx ▸ h.idxEven, hidx ▸ h.idxTop, ?_, hw, hfsm.trans h.fsm,
    herr.trans h.err, hk.ill.trans h.ill, ?_⟩
  · rw [hk.framePort, hk.par]
    exact h.slot
  · unfold State.LatchOk State.latchedMode
    rw [hk.opl]
    exact h.latch

/-- After the straight-line actions the operation is over or at the head of its token loop. -/
theorem State.Runs.endScript (h : s.Runs op) : (endScript (opTail op) s).Inv := by
  cases ht : opTail op with
  | ends => exact h.finish
  | words => exact State.Runs.inv { h with } (.inl ht)
  | fifo =>
    refine State.Runs.inv { h with idxEven := rfl, idxTop := Nat.zero_le _ } (.inr ⟨ht, ?_, Memory.written_zero _⟩)
    exact Nat.succ_pos _

theorem State.Runs.scriptStep (h : s.Runs op) (hpos : s.pos = .script) :
    (scriptStep (opScript op s) (opTail op) s).Inv := by
  rcases scriptStep_cases (opScript op s) (opTail op) s with
    ⟨-, e⟩ | ⟨a, t, b, ha, hp, ⟨-, hlt, e⟩ | ⟨-, -, e⟩ | ⟨-, e⟩⟩ <;> rw [e]
  · exact h.endScript
  all_goals
    have hr : t.Runs op := h.performed (widthOk_opScript h.params.fits op a (List.mem_of_getElem? ha)) hp
  · obtain ⟨-, -, hpc, -, -, htpos, -⟩ := performed_seq hp
    have hk := performed_kept hp
    refine State.Runs.inv (s := t.countAction) { hr with } ?_
    unfold State.PlaceOk
    rw [State.countAction_pos, htpos, hpos]
    left
    rwa [State.countAction_pc, hpc, opScript_congr op (t := t.countAction) hk.cfg hk.par hk.opl]
  · exact State.Runs.endScript (s := t.countAction) { hr with }
  · exact hr.busError _

theorem State.Runs.wordsToken (h : s.Runs op) (ht : opTail op = .words) (hi : s.Inv) : (wordsToken s).Inv := by
  unfold Machine.wordsToken
  split
  · exact hi
  · exact State.Runs.inv { h with } ht
  · exact State.Runs.finish (op := op) { h with }

theorem State.Runs.writeStep (h : s.Runs op) (ht : opTail op = .words) (w : Word) : (writeStep w s).Inv := by
  obtain ⟨t, b, hp, ⟨-, e⟩ | ⟨-, e⟩⟩ := writeStep_cases w s <;> rw [e]
  all_goals have hr := h.performed (wordBytes_widthOk w) hp
  · exact State.Runs.inv { hr with } (.inl ht)
  · exact hr.busError _

/-- An append fills the FIFO up to an even index of at most 32, where the flush is due (40_framer R103). -/
theorem State.Runs.fifoToken {t : State} (h : s.Runs op) (ht : opTail op = .fifo) (hlt : s.idx < fifoBytes)
    (hw : s.buf.Written s.idx) (hi : s.Inv) (hs : fifoToken s = .next t) : t.Inv := by
  rcases fifoToken_cases hs with ⟨-, rfl⟩ | ⟨w, rest, m, -, hm, rfl⟩ | ⟨rest, -, -, rfl⟩ | ⟨rest, -, hne, rfl⟩
  · exact hi
  · have hm' : Memory.Written m (s.idx + 2) := hw.putWord h.bufForm hm
    have heven : (s.idx + 2) % 2 = 0 := by have := h.idxEven; omega
    have htop : s.idx + 2 ≤ fifoBytes := by have := h.idxEven; unfold fifoBytes at *; omega
    refine State.Runs.inv { h with bufForm := (Memory.putWord_spec h.bufForm hm).1, idxEven := heven, idxTop := htop } ?_
    unfold State.PlaceOk
    split_ifs with hfull
    · exact ⟨ht, Nat.succ_pos _, hm', hfull⟩
    · exact .inr ⟨ht, Nat.lt_of_le_of_ne htop hfull, hm'⟩
  · exact State.Runs.finish (op := op) { h with }
  · exact State.Runs.inv { h with } ⟨ht, Nat.pos_of_ne_zero hne, hw, hlt⟩

theorem State.Runs.flushStep {t : State} {last : Bool} (h : s.Runs op) (ht : opTail op = .fifo) (hpos : 0 < s.idx)
    (hw : s.buf.Written s.idx) (hs : flushStep last s = .next t) : t.Inv := by
  obtain ⟨bs, u, b, hr, hp, hend⟩ := flushStep_cases hs
  have hlen : bs.length = s.idx := by
    obtain ⟨bs', hr', hl, -⟩ := hw.read
    rw [hr] at hr'
    injection hr' with e
    exact e ▸ hl
  have hu : u.Runs op := h.performed (a := .xfer bs) ⟨hlen ▸ hpos, hlen ▸ h.idxTop⟩ hp
  rcases hend with ⟨-, -, rfl⟩ | ⟨-, -, rfl⟩ | ⟨-, rfl⟩
  · exact State.Runs.finish (op := op) { hu with }
  · refine State.Runs.inv { hu with idxEven := rfl, idxTop := Nat.zero_le _ } (.inr ⟨ht, ?_, Memory.written_zero _⟩)
    exact Nat.succ_pos _
  · exact hu.busError _

end Runs

/-- A step of a running operation keeps the invariant, by the place it stands at. -/
theorem State.Inv.runStep {s t : State} {op : Op} (hi : s.Inv) (hf : s.fsm = .run op)
    (h : runStep (opScript op s) (opTail op) s = .next t) : t.Inv := by
  have hr := hi.runs hf
  have hp : s.PlaceOk op := hi.place op hf
  unfold State.PlaceOk at hp
  rcases runStep_cases h with ⟨hpos, rfl⟩ | ⟨hpos, htok⟩ | ⟨w, hpos, rfl⟩ | ⟨last, hpos, hfl⟩ <;> rw [hpos] at hp
  · exact hr.scriptStep hpos
  · rcases htok with ⟨ht, hfifo⟩ | ⟨ht, rfl⟩ | ⟨-, rfl⟩
    · obtain hw | ⟨-, hlt, hw⟩ := hp
      · exact absurd (ht.symm.trans hw) (by decide)
      · exact hr.fifoToken ht hlt hw hi hfifo
    · exact hr.wordsToken ht hi
    · exact hr.finish
  · exact hr.writeStep hp w
  · obtain ⟨ht, hidx, hw, -⟩ := hp
    exact hr.flushStep ht hidx hw hfl

/-! ### Idle and draining -/

theorem State.Inv.drainToken {s : State} (hi : s.Inv) (hf : s.fsm = .drain) : (drainToken s).Inv := by
  have hs : s.StatusOk := hi.status
  unfold State.StatusOk at hs
  rw [hf] at hs
  unfold Machine.drainToken
  split
  · exact hi
  · exact { hi with
      place := fun _ h => absurd (hf.symm.trans h) (by simp)
      latch := fun _ h => absurd (hf.symm.trans h) (by simp) }
  · exact { hi with
      status := fun h => absurd (hs.2.symm.trans h.2) (by decide)
      place := fun _ h => by cases h
      rest := fun _ => rfl
      latch := fun _ h => by cases h }

theorem State.Inv.illegalCommand {s : State} (hi : s.Inv) (hf : s.fsm = .idle) : (illegalCommand s).Inv :=
  { hi with
    status := by
      show State.StatusOk _
      unfold State.StatusOk
      rw [show (Machine.illegalCommand s).fsm = .idle from hf]
      exact fun h => Bool.noConfusion h.1
    place := fun _ h => absurd (hf.symm.trans h) (by simp)
    latch := fun _ h => absurd (hf.symm.trans h) (by simp) }

theorem startOf_slot (i : Instr) (s : State) :
    (startOf i s).framePort = s.framePort ∨ (startOf i s).framePort = none := by
  rcases exists_legal_or_command i with ⟨w, h⟩ | ⟨c, rfl⟩
  · rw [startOf_of_legal h]
    exact .inl rfl
  · rw [startOf_command]
    exact .inr rfl

theorem State.Inv.startOf {s : State} (hi : s.Inv) (i : Instr) : (startOf i s).Inv := by
  obtain ⟨-, -, -, -, hpar, -, -, hbuf, hidx, -, -, htr, -, -, -, -, herr, hill, hpc, hpos, hfsm⟩ := startOf_fields i s
  refine State.Runs.inv (op := i.op) ⟨hpar ▸ hi.params, hbuf ▸ hi.bufForm, hidx ▸ hi.idxEven, hidx ▸ hi.idxTop, ?_,
    htr ▸ hi.widths, hfsm, herr, hill, startOf_latchOk i s⟩ ?_
  · intro b hb
    rw [hpar]
    rcases startOf_slot i s with e | e <;> rw [e] at hb
    · exact hi.slot b hb
    · cases hb
  · unfold State.PlaceOk
    rw [hpos, hpc]
    by_cases hop : i.op = .offset
    · exact .inr hop
    · exact .inl (opScript_length_pos _ hop)

theorem State.Inv.offset {s : State} (hi : s.Inv) (hf : s.fsm = .run .offset) : (finish (writeOffset s)).Inv :=
  State.Runs.finish (op := .offset) { hi.runs hf with }

theorem State.Inv.blockStep {s t : State} (hi : s.Inv) (h : blockStep s = .next t) : t.Inv := by
  rcases blockStep_by_fsm h with ⟨hf, rfl | rfl | ⟨i, -, rfl⟩⟩ | ⟨hf, rfl⟩ | ⟨op, hf, -, hr⟩ | ⟨hf, rfl⟩
  · exact hi
  · exact hi.illegalCommand hf
  · exact hi.startOf i
  · exact hi.offset hf
  · exact hi.runStep hf hr
  · exact hi.drainToken hf

/-! ### The host's side -/

/-- The place depends on the script, `PC` and the pixel FIFO alone. -/
theorem State.PlaceOk.congr {s t : State} {op : Op} (h : s.PlaceOk op) (hcfg : t.cfg = s.cfg) (hpar : t.par = s.par)
    (hopl : t.opl = s.opl) (hpos : t.pos = s.pos) (hpc : t.pc = s.pc) (hbuf : t.buf = s.buf) (hidx : t.idx = s.idx) :
    t.PlaceOk op := by
  unfold State.PlaceOk at *
  rwa [hpos, hpc, hbuf, hidx, opScript_congr op hcfg hpar hopl]

/-- The invariant says nothing of `ARG`, the ports, the last reply and the schedule. -/
theorem State.Inv.of_ports {s : State} (hi : s.Inv) (arg : Operands) (cmdPort : Option Word) (pix : List Token)
    (rdata : Option Word) (host : List HostAction) :
    State.Inv { s with arg := arg, cmdPort := cmdPort, pix := pix, rdata := rdata, host := host } :=
  { hi with
    place := fun op hf => (hi.place op hf).congr rfl rfl rfl rfl rfl rfl rfl }

/-- Block reset, with whatever is held outside the block (70_reset R230; log 19). -/
theorem State.Inv.blockReset {s : State} (hp : s.par.WellFormed) : (blockReset s).Inv where
  params := hp
  bufForm := ⟨List.Pairwise.nil, fun _ h => absurd h List.not_mem_nil⟩
  idxEven := rfl
  idxTop := Nat.zero_le _
  status := fun h => Bool.noConfusion h.1
  place _ h := by cases h
  rest _ := rfl
  latch _ h := by cases h
  slot _ h := by cases h
  widths _ h := absurd h List.not_mem_nil

theorem State.Inv.hostMove {s t : State} (hi : s.Inv) (h : hostTurn s = .host t) : t.Inv := by
  rcases hostTurn_host h with ⟨-, rfl⟩ | ⟨-, e⟩
  · exact State.Inv.blockReset hi.params
  · rw [e]
    exact hi.of_ports _ _ _ _ _

theorem State.Inv.turn {s u : State} (hi : s.Inv) (h : hostTurn s = .block u) : u.Inv := by
  rcases hostTurn_block h with rfl | ⟨rest, -, rfl⟩
  · exact hi
  · exact hi.of_ports _ _ _ _ _

/-- Settles O3, by cases of the step: the host's move touches nothing the invariant speaks of or resets the block, and
each move of the block keeps it. -/
theorem everyStepKeepsTheInvariant : Obligations.EveryStepKeepsTheInvariant := by
  intro s t hi h
  rcases step_cases h with hh | ⟨u, hu, hb⟩
  · exact hi.hostMove hh
  · exact (hi.turn hu).blockStep hb

/-! ### No stop under the invariant -/

/-- The append has room and the flush reads only written bytes, so a running operation goes on. -/
theorem State.Inv.runStep_answers {s : State} {op : Op} (hi : s.Inv) (hf : s.fsm = .run op) :
    ∃ t, Machine.runStep (opScript op s) (opTail op) s = .next t := by
  have hp : s.PlaceOk op := hi.place op hf
  unfold State.PlaceOk at hp
  cases hpos : s.pos with
  | script => exact ⟨_, runStep_script hpos⟩
  | write w => exact ⟨_, runStep_write hpos⟩
  | flush last =>
    rw [hpos] at hp
    obtain ⟨-, -, hw, -⟩ := hp
    obtain ⟨bs, hr, -, -⟩ := hw.read
    rw [runStep_flush hpos]
    unfold Machine.flushStep
    rw [hr]
    dsimp only
    split
    · split <;> exact ⟨_, rfl⟩
    · exact ⟨_, rfl⟩
  | token =>
    rw [hpos] at hp
    obtain ht | ⟨ht, hlt, -⟩ := hp <;> rw [ht]
    · exact ⟨_, runStep_words hpos⟩
    · have hroom : s.idx + 1 < fifoBytes := by have := hi.idxEven; unfold fifoBytes at *; omega
      rw [runStep_fifo hpos]
      unfold Machine.fifoToken
      split
      · exact ⟨_, rfl⟩
      · rw [Memory.putWord_isSome hroom]
        exact ⟨_, rfl⟩
      · split <;> exact ⟨_, rfl⟩

/-- A catalog opcode is found in the catalog (30_encoding R77). -/
theorem decodeOpcode_of_catalog (t : OpcTable) (c : Command) : ∃ i, decodeOpcode t (t.opcode c) = .instr i := by
  unfold decodeOpcode
  cases hf : Command.all.find? (fun d => t.opcode d == t.opcode c) with
  | some d => exact ⟨_, rfl⟩
  | none => exact absurd (List.find?_eq_none.1 hf c c.mem_all) (by simp)

/-- The frame slot of an idle block holds no byte outside the catalog. -/
theorem State.Inv.fetch_ne_unknownOpcode {s : State} (hi : s.Inv) (b : Byte) : fetch s ≠ .unknownOpcode b := by
  unfold fetch
  split
  · simp
  · simp
  · split
    · rename_i b' hb
      obtain ⟨c, rfl⟩ := hi.slot b' hb
      obtain ⟨i, hd⟩ := decodeOpcode_of_catalog s.par.opc c
      simp [hd]
    · split
      · simp
      · split <;> simp

theorem State.Inv.blockStep_answers {s : State} (hi : s.Inv) : ∃ t, Machine.blockStep s = .next t := by
  cases hf : s.fsm with
  | run op =>
    by_cases hop : op = .offset
    · subst hop
      exact ⟨_, blockStep_offset hf⟩
    · rw [blockStep_run hf hop]
      exact hi.runStep_answers hf
  | drain => exact ⟨_, blockStep_drain hf⟩
  | idle =>
    unfold Machine.blockStep
    split
    · exact ⟨_, rfl⟩
    · exact ⟨_, exec_idle _ hf⟩
    · exact ⟨_, rfl⟩
    · rename_i b hb
      exact absurd hb (hi.fetch_ne_unknownOpcode b)
    · exact ⟨_, rfl⟩

/-- Settles O4: the host's move always answers, and so does the block's under the invariant. -/
theorem invariantStatesNeverStop : Obligations.InvariantStatesNeverStop := by
  intro s hi
  unfold step
  cases ht : hostTurn s with
  | host t => exact ⟨t, rfl⟩
  | block u => exact (hi.turn ht).blockStep_answers

end Sys2Proof.Machine

/-! What a step leaves alone, what it reads, and which instruction it runs. -/

namespace Sys2Proof.Machine

open Sys2Proof.Spec

/-! ### What the block's move leaves alone -/

/-- The block's turn differs from the state before it in the schedule alone. -/
theorem exists_host_of_hostTurn_block {s u : State} (h : hostTurn s = .block u) :
    ∃ host, u = { s with host := host } := by
  rcases hostTurn_block h with rfl | ⟨rest, -, rfl⟩
  · exact ⟨_, rfl⟩
  · exact ⟨rest, rfl⟩

/-- A busy block keeps the offered word and the latch, and starts no operation (10_state R37). -/
theorem blockStep_busy {s t : State} (hbusy : s.fsm ≠ .idle) (h : blockStep s = .next t) :
    t.cmdPort = s.cmdPort ∧ t.opl = s.opl ∧ (t.fsm = s.fsm ∨ t.fsm = .drain ∨ t.fsm = .idle) := by
  rcases blockStep_by_fsm h with ⟨hf, -⟩ | ⟨-, rfl⟩ | ⟨op, -, -, hr⟩ | ⟨-, rfl⟩
  · exact absurd hf hbusy
  · exact ⟨rfl, rfl, .inr (.inr rfl)⟩
  · have hk := runStep_kept hr
    exact ⟨hk.cmdPort, hk.opl, (runStep_effect hr).fsm⟩
  · have hk := drainToken_kept s
    obtain ⟨hfsm, -⟩ := drainToken_effect s
    exact ⟨hk.cmdPort, hk.opl, hfsm.imp_right .inr⟩

/-- The block keeps `DX` and `DY` but in OFFSET's own step (10_state R24, 44_offset R160). -/
theorem blockStep_offsets {s t : State} (h : blockStep s = .next t) :
    (t.dx = s.dx ∧ t.dy = s.dy) ∨ (s.fsm = .run .offset ∧ t = finish (writeOffset s)) := by
  rcases blockStep_by_fsm h with ⟨-, rfl | rfl | ⟨i, -, rfl⟩⟩ | hoff | ⟨op, -, -, hr⟩ | ⟨-, rfl⟩
  · exact .inl ⟨rfl, rfl⟩
  · exact .inl ⟨rfl, rfl⟩
  · obtain ⟨-, hdx, hdy, -⟩ := startOf_fields i s
    exact .inl ⟨hdx, hdy⟩
  · exact .inr hoff
  · have hk := runStep_kept hr
    exact .inl ⟨hk.dx, hk.dy⟩
  · have hk := drainToken_kept s
    exact .inl ⟨hk.dx, hk.dy⟩

/-- The block appends at most one event, and none from IDLE (20_memory R62). -/
theorem blockStep_tr {s t : State} (h : blockStep s = .next t) :
    (t.tr = s.tr ∨ ∃ e, t.tr = s.tr ++ [e]) ∧ (s.fsm = .idle → t.tr = s.tr) := by
  rcases blockStep_by_fsm h with ⟨-, rfl | rfl | ⟨i, -, rfl⟩⟩ | ⟨-, rfl⟩ | ⟨op, hf, -, hr⟩ | ⟨-, rfl⟩
  · exact ⟨.inl rfl, fun _ => rfl⟩
  · exact ⟨.inl rfl, fun _ => rfl⟩
  · obtain ⟨-, -, -, -, -, -, -, -, -, -, -, htr, -⟩ := startOf_fields i s
    exact ⟨.inl htr, fun _ => htr⟩
  · exact ⟨.inl rfl, fun _ => rfl⟩
  · exact ⟨(runStep_effect hr).tr, fun hi => absurd (hf.symm.trans hi) (by simp)⟩
  · obtain ⟨-, htr, -⟩ := drainToken_effect s
    exact ⟨.inl htr, fun _ => htr⟩

/-- The block takes the first token offered, in a drain or a token loop, and emits nothing with it (10_state R39). -/
theorem blockStep_pix {s t : State} (h : blockStep s = .next t) (hne : t.pix ≠ s.pix) :
    t.tr = s.tr ∧ t.pix = s.pix.tail ∧
      (s.fsm = .drain ∨ (s.pos = .token ∧ ∃ op, s.fsm = .run op ∧ opTail op ≠ .ends)) := by
  rcases blockStep_by_fsm h with ⟨-, rfl | rfl | ⟨i, -, rfl⟩⟩ | ⟨-, rfl⟩ | ⟨op, hf, -, hr⟩ | ⟨hf, rfl⟩
  · exact absurd rfl hne
  · exact absurd rfl hne
  · obtain ⟨-, -, -, -, -, -, -, -, -, -, -, -, -, hpix, -⟩ := startOf_fields i s
    exact absurd hpix hne
  · exact absurd rfl hne
  · obtain hpix | ⟨hpos, htail, hpix, htr⟩ := (runStep_effect hr).pix
    · exact absurd hpix hne
    · exact ⟨htr, hpix, .inr ⟨hpos, op, hf, htail⟩⟩
  · obtain ⟨-, htr, hpix, -⟩ := drainToken_effect s
    exact ⟨htr, hpix.resolve_left hne, .inl hf⟩

/-- Settles O14: the block moves from the state the host leaves it, and a busy block's move keeps the port and the
latch. -/
theorem busyBlockLeavesTheOfferedCommand : Obligations.BusyBlockLeavesTheOfferedCommand := by
  intro s t u hu hbusy h
  rw [step_block hu] at h
  obtain ⟨host, rfl⟩ := exists_host_of_hostTurn_block hu
  exact blockStep_busy (s := { s with host := host }) hbusy h

/-- Settles O15: the host's move changes the offsets only by a block reset, the block's only in OFFSET's step. -/
theorem onlyOffsetWritesTheOffsets : Obligations.OnlyOffsetWritesTheOffsets := by
  intro s t h hne
  rcases step_cases h with hh | ⟨u, hu, hb⟩
  · obtain ⟨hreset, -⟩ | ⟨-, e⟩ := hostTurn_host hh
    · exact .inl hreset
    · rw [e] at hne
      exact absurd hne (by simp)
  · obtain ⟨host, rfl⟩ := exists_host_of_hostTurn_block hu
    obtain ⟨hdx, hdy⟩ | ⟨hf, rfl⟩ := blockStep_offsets hb
    · exact absurd hne (by simp [hdx, hdy])
    · exact .inr ⟨hf, rfl, rfl, rfl⟩

/-- Settles O19: the host's move leaves the trace as it is but for a block reset, and the block's appends at most one
event. -/
theorem stepAppendsAtMostOneEvent : Obligations.StepAppendsAtMostOneEvent := by
  intro s t hreset h
  rcases step_cases h with hh | ⟨u, hu, hb⟩
  · obtain ⟨hr, -⟩ | ⟨-, e⟩ := hostTurn_host hh
    · exact absurd hr hreset
    · rw [e]
      exact ⟨.inl rfl, fun _ => rfl⟩
  · obtain ⟨host, rfl⟩ := exists_host_of_hostTurn_block hu
    exact blockStep_tr (s := { s with host := host }) hb

/-- Settles O20: the block moves from the state the host leaves it, and its move takes tokens so. -/
theorem tokensAreTakenOnlyInLoopsOrDrain : Obligations.TokensAreTakenOnlyInLoopsOrDrain := by
  intro s t u hu h hne
  rw [step_block hu] at h
  obtain ⟨host, rfl⟩ := exists_host_of_hostTurn_block hu
  exact blockStep_pix (s := { s with host := host }) h hne

/-! ### The frame of an instruction -/

/-- Only the buffered streams have the pixel FIFO for a token loop (45_drawing R172, R174). -/
theorem opTail_op_ne_fifo {i : Instr} (h : i ≠ .wpixb ∧ i ≠ .spixb) : opTail i.op ≠ .fifo := by
  cases i with
  | wpixb => exact absurd rfl h.1
  | spixb => exact absurd rfl h.2
  | _ => simp [Instr.op, opTail]

/-- Outside the buffered loop no flush is due. -/
theorem State.PlaceOk.pos_ne_flush {s : State} {op : Op} (h : s.PlaceOk op) (ht : opTail op ≠ .fifo) (last : Bool) :
    s.pos ≠ .flush last := by
  intro hpos
  unfold State.PlaceOk at h
  rw [hpos] at h
  exact ht h.1

/-- A running instruction writes `RST_Q` only if it is INIT, `IDX` and `BUF` only if it is a buffered stream (10_state
R30, R31). -/
theorem exec_running_frame {i : Instr} {s t : State} (hi : s.Inv) (hf : s.fsm = .run i.op) (hoff : i ≠ .offset)
    (h : exec i s = .next t) :
    (i ≠ .init → t.rstQ = s.rstQ) ∧ (i ≠ .wpixb ∧ i ≠ .spixb → t.idx = s.idx ∧ t.buf = s.buf) := by
  rw [exec_running hf hoff] at h
  have he := runStep_effect h
  refine ⟨fun hinit => he.rstQ fun a ha => (inFrame_instrScript hi.params.fits hinit a ha).ne_reset, fun hbuf => ?_⟩
  have ht := opTail_op_ne_fifo hbuf
  exact he.fifo ht ((hi.place _ hf).pos_ne_flush ht)

/-- Settles O17, by `FSM`: a start writes the latch, the flags and the sequencer; a drain the token port and the
sequencer; a running OFFSET `DX` and `DY`; any other running operation what its actions and its token loop write. -/
theorem execLeavesTheRestUnchanged : Obligations.ExecLeavesTheRestUnchanged := by
  intro i s t hi hown h
  cases hf : s.fsm with
  | idle =>
    rw [exec_idle i hf] at h
    injection h with h
    subst h
    obtain ⟨hcfg, hdx, hdy, harg, hpar, hhost, hrdata, hbuf, hidx, -, hrstQ, -⟩ := startOf_fields i s
    exact ⟨hcfg, hpar, harg, hhost, hrdata, fun _ => ⟨hdx, hdy⟩, fun _ => hrstQ, fun _ => ⟨hidx, fun a => by rw [hbuf]⟩,
      fun hn => absurd rfl hn⟩
  | drain =>
    rw [exec_drain i hf] at h
    injection h with h
    subst h
    have hk := drainToken_kept s
    obtain ⟨-, -, -, hrstQ, hidx, hbuf⟩ := drainToken_effect s
    exact ⟨hk.cfg, hk.par, hk.arg, hk.host, hk.rdata, fun _ => ⟨hk.dx, hk.dy⟩, fun _ => hrstQ,
      fun _ => ⟨hidx, fun a => by rw [hbuf]⟩, fun _ => ⟨hk.opl, hk.cmdPort, hk.framePort, hk.ill⟩⟩
  | run op =>
    by_cases hoff : i = .offset
    · subst hoff
      rw [exec_offset_running hf] at h
      injection h with h
      subst h
      exact ⟨rfl, rfl, rfl, rfl, rfl, fun hn => absurd rfl hn, fun _ => rfl, fun _ => ⟨rfl, fun _ => rfl⟩,
        fun _ => ⟨rfl, rfl, rfl, rfl⟩⟩
    · have hk := exec_kept hoff (by simp [hf]) h
      obtain ⟨hrstQ, hfifo⟩ := exec_running_frame hi (hown op hf ▸ hf) hoff h
      refine ⟨hk.cfg, hk.par, hk.arg, hk.host, hk.rdata, fun _ => ⟨hk.dx, hk.dy⟩, hrstQ, fun hbuf => ?_,
        fun _ => ⟨hk.opl, hk.cmdPort, hk.framePort, hk.ill⟩⟩
      obtain ⟨hidx, hb⟩ := hfifo hbuf
      exact ⟨hidx, fun a => by rw [hb]⟩

/-! ### Reading only the latch -/

/-- The state with other values in `ARG`, `DX` and `DY`. -/
def State.withOperands (s : State) (arg : Operands) (dx dy : Word) : State := { s with arg := arg, dx := dx, dy := dy }

section WithOperands

variable (s : State) (arg : Operands) (dx dy : Word)

theorem perform_withOperands (a : Action) :
    perform a (s.withOperands arg dx dy) = ((perform a s).1.withOperands arg dx dy, (perform a s).2) := by
  have hn : (s.withOperands arg dx dy).nextAnswer = s.nextAnswer := rfl
  cases a with
  | drive l v => cases l <;> cases h : s.nextAnswer <;> simp only [perform, hn, h] <;> rfl
  | xfer bs =>
    cases bs with
    | nil => rfl
    | cons b bs => cases h : s.nextAnswer <;> simp only [perform, hn, h] <;> rfl
  | delay ms => rfl

theorem endScript_withOperands (tail : Tail) :
    endScript tail (s.withOperands arg dx dy) = (endScript tail s).withOperands arg dx dy := by
  cases tail <;> rfl

theorem scriptStep_withOperands (script : List Action) (tail : Tail) :
    scriptStep script tail (s.withOperands arg dx dy) = (scriptStep script tail s).withOperands arg dx dy := by
  have hpc : (s.withOperands arg dx dy).pc = s.pc := rfl
  unfold scriptStep
  rw [hpc]
  cases script[s.pc]? with
  | none => exact endScript_withOperands _ _ _ _ _
  | some a =>
    simp only [perform_withOperands]
    rcases perform a s with ⟨t, b⟩
    cases b with
    | false => rfl
    | true =>
      show (if t.pc + 1 < script.length then t.countAction.withOperands arg dx dy
        else endScript tail (t.countAction.withOperands arg dx dy)) = _
      rw [endScript_withOperands]
      exact (apply_ite (State.withOperands · arg dx dy) _ _ _).symm

theorem wordsToken_withOperands :
    wordsToken (s.withOperands arg dx dy) = (wordsToken s).withOperands arg dx dy := by
  have hx : (s.withOperands arg dx dy).pix = s.pix := rfl
  unfold wordsToken
  rw [hx]
  rcases s.pix with _ | ⟨_ | _, _⟩ <;> rfl

theorem drainToken_withOperands :
    drainToken (s.withOperands arg dx dy) = (drainToken s).withOperands arg dx dy := by
  have hx : (s.withOperands arg dx dy).pix = s.pix := rfl
  unfold drainToken
  rw [hx]
  rcases s.pix with _ | ⟨_ | _, _⟩ <;> rfl

theorem writeStep_withOperands (w : Word) :
    writeStep w (s.withOperands arg dx dy) = (writeStep w s).withOperands arg dx dy := by
  unfold writeStep
  rw [perform_withOperands]
  rcases perform (.xfer (wordBytes w)) s with ⟨t, _ | _⟩ <;> rfl

theorem fifoToken_withOperands :
    fifoToken (s.withOperands arg dx dy) = mapNext (State.withOperands · arg dx dy) (fifoToken s) := by
  have hx : (s.withOperands arg dx dy).pix = s.pix := rfl
  have hb : (s.withOperands arg dx dy).buf = s.buf := rfl
  have hi : (s.withOperands arg dx dy).idx = s.idx := rfl
  unfold fifoToken
  rw [hx, hb, hi]
  rcases s.pix with _ | ⟨w | _, rest⟩
  · rfl
  · dsimp only
    cases s.buf.putWord s.idx w <;> rfl
  · dsimp only
    split <;> rfl

theorem flushStep_withOperands (last : Bool) :
    flushStep last (s.withOperands arg dx dy) = mapNext (State.withOperands · arg dx dy) (flushStep last s) := by
  have hb : (s.withOperands arg dx dy).buf = s.buf := rfl
  have hi : (s.withOperands arg dx dy).idx = s.idx := rfl
  unfold flushStep
  rw [hb, hi]
  cases s.buf.read 0 s.idx with
  | none => rfl
  | some bs =>
    simp only [perform_withOperands]
    rcases perform (.xfer bs) s with ⟨t, _ | _⟩ <;> cases last <;> rfl

/-- A step of a running operation commutes with a change of `ARG`, `DX` and `DY` (10_state R26). -/
theorem runStep_withOperands (script : List Action) (tail : Tail) :
    runStep script tail (s.withOperands arg dx dy) = mapNext (State.withOperands · arg dx dy) (runStep script tail s) := by
  have hpos : (s.withOperands arg dx dy).pos = s.pos := rfl
  unfold runStep
  rw [hpos]
  cases s.pos with
  | script => exact congrArg Host.Outcome.next (scriptStep_withOperands s arg dx dy script tail)
  | token =>
    cases tail with
    | fifo => exact fifoToken_withOperands s arg dx dy
    | words => exact congrArg Host.Outcome.next (wordsToken_withOperands s arg dx dy)
    | ends => rfl
  | write w => exact congrArg Host.Outcome.next (writeStep_withOperands s arg dx dy w)
  | flush last => exact flushStep_withOperands s arg dx dy last

end WithOperands

/-- Settles O18: a drain and every running operation commute with the change, OFFSET but for the registers it
writes. -/
theorem runningOperationReadsOnlyTheLatch : Obligations.RunningOperationReadsOnlyTheLatch := by
  intro i s arg dx dy hbusy
  show exec i (s.withOperands arg dx dy) = _
  cases hf : s.fsm with
  | idle => exact absurd hf hbusy
  | drain =>
    have hf' : (s.withOperands arg dx dy).fsm = .drain := hf
    rw [exec_drain i hf, exec_drain i hf', drainToken_withOperands]
    simp only [mapNext, ne_eq, not_true_eq_false, and_false, if_false]
    rfl
  | run op =>
    have hf' : (s.withOperands arg dx dy).fsm = .run op := hf
    by_cases hoff : i = .offset
    · subst hoff
      rw [exec_offset_running hf, exec_offset_running hf']
      rfl
    · rw [exec_running hf hoff, exec_running hf' hoff, instrScript_congr (s := s) i rfl rfl rfl, runStep_withOperands]
      simp only [hoff, false_and, if_false]
      rfl

/-! ### Whose turn, and which instruction -/

/-- Settles O10: the fetch follows `FSM`, the frame slot and the command port. -/
theorem stepRunsTheDecodedInstruction : Obligations.StepRunsTheDecodedInstruction := by
  intro s u i hu hcase
  have hfetch : fetch u = .instr i := by
    rcases hcase with ⟨op, hf, rfl⟩ | ⟨w, hf, hslot, hcmd, hd⟩ | ⟨b, hf, hslot, hd⟩
    · exact fetch_running hf
    · have hd' : decodeCommand w = .instr i := hd
      simp [fetch, hf, hslot, hcmd, hd']
    · have hd' : decodeOpcode u.par.opc b = .instr i := hd
      simp [fetch, hf, hslot, hd']
  rw [step_block hu, blockStep, hfetch]

/-- Settles O11: the word decodes to its row's instruction, whose start is the acceptance of the word. -/
theorem legalWordIsAccepted : Obligations.LegalWordIsAccepted := by
  intro s u w i hu hf hslot hcmd hw
  rw [stepRunsTheDecodedInstruction s u i hu (.inr (.inl ⟨w, hf, hslot, hcmd, decodeCommand_of_legal hw⟩)),
    exec_idle i hf, startOf_of_legal hw]

/-- Settles O13: a catalog with distinct values gives the opcode's own command back, whose start is `startFrame`. -/
theorem frameStartLatchesOperands : Obligations.FrameStartLatchesOperands := by
  intro s u c hu hf hdist hslot
  rw [stepRunsTheDecodedInstruction s u c.instr hu (.inr (.inr ⟨_, hf, hslot, decodeOpcode_opcode hdist c⟩)),
    exec_idle _ hf, startOf_command]
  rfl

theorem State.busy_iff (s : State) : s.busy = true ↔ s.fsm ≠ .idle := by
  unfold State.busy
  cases s.fsm <;> simp

/-- Settles O48, move by move; what waits is decided by the command port or by BUSY. -/
theorem hostMovesAndWaits : Obligations.HostMovesAndWaits := by
  intro s more
  refine ⟨step_nil, fun h => ?_, fun w h => ?_, fun h => ?_, fun k h => ?_, fun h => ?_⟩
  · simp only [step, hostTurn, h]
  · cases hc : s.cmdPort <;> simp [step, hostTurn, h, hc]
  · cases hc : s.cmdPort <;> simp [step, hostTurn, h, hc]
  · simp only [step, hostTurn, h]
  · by_cases hf : s.fsm = .idle <;> simp [step, hostTurn, h, State.busy_iff, hf]

/-- Settles O49: the block's turn by `hostTurn_block`, the host's by `hostTurn_host`. -/
theorem hostTurnsTouchOnlyThePorts : Obligations.HostTurnsTouchOnlyThePorts := by
  intro s u
  refine ⟨fun hu => ⟨step_block hu, ?_⟩, fun hu hreset => ⟨by simp only [step, hu], ?_⟩⟩
  · rcases hostTurn_block hu with rfl | ⟨rest, hs, rfl⟩
    · exact .inl rfl
    · exact .inr (by rw [hs, List.tail_cons])
  · obtain ⟨hr, -⟩ | ⟨-, e⟩ := hostTurn_host hu
    · exact absurd hr hreset
    · exact e

end Sys2Proof.Machine

/-! The D/C discipline of the bus: the level a script's own drives set, the writes framed by it, and a step by cases. -/

namespace Sys2Proof.Machine

/-! ### The level a script sets -/

/-- The level an action drives D/C to, if it does. -/
def Action.dcLevel : Action → Option Level
  | .drive .dc l => some l
  | .drive .rst _ => none
  | .xfer _ => none
  | .delay _ => none

theorem lastDc_cons (a : Action) (as : List Action) : lastDc (a :: as) = (lastDc as).or a.dcLevel := by
  cases h : lastDc as with
  | none => rcases a with ⟨_ | _, _⟩ | _ | _ <;> simp [lastDc, h, Action.dcLevel]
  | some l => simp [lastDc, h]

theorem lastDc_append (as bs : List Action) : lastDc (as ++ bs) = (lastDc bs).or (lastDc as) := by
  induction as with
  | nil => simp [lastDc]
  | cons a as ih => rw [List.cons_append, lastDc_cons, ih, lastDc_cons, Option.or_assoc]

/-- One more action: its own level, else the one before it. -/
theorem lastDc_take_succ {script : List Action} {j : Nat} {a : Action} (ha : script[j]? = some a) :
    lastDc (script.take (j + 1)) = a.dcLevel.or (lastDc (script.take j)) := by
  rw [List.take_add_one, ha, lastDc_append]
  simp [lastDc_cons, lastDc]

/-- Every operation with a token loop leaves D/C high before it (45_drawing R177). -/
theorem lastDc_opScript {op : Op} (h : opTail op ≠ .ends) (s : State) : lastDc (opScript op s) = some .hi := by
  have ramwr : lastDc (ramwrScript s) = some .hi := rfl
  cases op with
  | wpix | wpixb => exact ramwr
  | spix | spixb =>
    show lastDc (windowScript s ++ ramwrScript s) = _
    rw [lastDc_append, ramwr]
    rfl
  | _ => exact absurd rfl h

/-! ### Scripts whose writes are framed -/

/-- A write made at the level `l` is framed: data at high, or one catalog opcode at low (20_memory R57). -/
def Action.FramedAt (opc : OpcTable) (l : Option Level) : Action → Prop
  | .drive _ _ => True
  | .xfer bs => l = some .hi ∨ (l = some .lo ∧ ∃ c, bs = [opc.opcode c])
  | .delay _ => True

/-- Every write of the actions is framed at the level the drives before it set, `l` being that before the first. -/
def FramedFrom (opc : OpcTable) : Option Level → List Action → Prop
  | _, [] => True
  | l, a :: as => a.FramedAt opc l ∧ FramedFrom opc (a.dcLevel.or l) as

/-- Framed wherever they start: a write never comes before the first drive of D/C. -/
def SelfFramed (opc : OpcTable) (as : List Action) : Prop := ∀ l, FramedFrom opc l as

theorem FramedFrom.append {opc : OpcTable} {as bs : List Action} {l : Option Level} (ha : FramedFrom opc l as)
    (hb : SelfFramed opc bs) : FramedFrom opc l (as ++ bs) := by
  induction as generalizing l with
  | nil => exact hb l
  | cons a as ih => exact ⟨ha.1, ih ha.2⟩

theorem SelfFramed.append {opc : OpcTable} {as bs : List Action} (ha : SelfFramed opc as) (hb : SelfFramed opc bs) :
    SelfFramed opc (as ++ bs) := fun l => (ha l).append hb

/-- The action at an index is framed at the level set before it. -/
theorem FramedFrom.getElem {opc : OpcTable} {as : List Action} {l : Option Level} (h : FramedFrom opc l as) {j : Nat}
    {a : Action} (ha : as[j]? = some a) : a.FramedAt opc ((lastDc (as.take j)).or l) := by
  induction as generalizing l j with
  | nil => simp at ha
  | cons b as ih =>
    cases j with
    | zero =>
      obtain rfl : b = a := by simpa using ha
      exact h.1
    | succ j =>
      rw [List.take_succ_cons, lastDc_cons, Option.or_assoc]
      exact ih h.2 (by simpa using ha)

theorem selfFramed_writeCommand (opc : OpcTable) (c : Command) (ps : List Byte) :
    SelfFramed opc (writeCommand opc c ps) := by
  intro l
  cases ps <;> simp [writeCommand, FramedFrom, Action.FramedAt, Action.dcLevel]

theorem selfFramed_delay (opc : OpcTable) (ms : Byte) : SelfFramed opc [.delay ms] := fun _ => ⟨trivial, trivial⟩

theorem selfFramed_settled (opc : OpcTable) (c : Command) (ms : Byte) :
    SelfFramed opc (writeCommand opc c [] ++ [.delay ms]) :=
  (selfFramed_writeCommand opc c []).append (selfFramed_delay opc ms)

/-- The hard reset drives the other line (42_bringup R131). -/
theorem selfFramed_hardReset (opc : OpcTable) : SelfFramed opc hardReset := by
  intro l
  simp [hardReset, FramedFrom, Action.FramedAt]

theorem selfFramed_columnFrame (s : State) (x0 x1 : Word) : SelfFramed s.par.opc (columnFrame s x0 x1) := by
  intro l
  simp [columnFrame, writeCommand, startData, writeWord, FramedFrom, Action.FramedAt, Action.dcLevel]

theorem selfFramed_rowFrame (s : State) (y0 y1 : Word) : SelfFramed s.par.opc (rowFrame s y0 y1) := by
  intro l
  simp [rowFrame, writeCommand, startData, writeWord, FramedFrom, Action.FramedAt, Action.dcLevel]

theorem selfFramed_setWindow (s : State) (sx sy ex ey : Word) : SelfFramed s.par.opc (setWindow s sx sy ex ey) :=
  (selfFramed_columnFrame s sx ex).append (selfFramed_rowFrame s sy ey)

theorem selfFramed_ramwrScript (s : State) : SelfFramed s.par.opc (ramwrScript s) := by
  intro l
  simp [ramwrScript, writeCommand, startData, FramedFrom, Action.FramedAt, Action.dcLevel]

theorem selfFramed_pixelScript (s : State) : SelfFramed s.par.opc (pixelScript s) := by
  have data : SelfFramed s.par.opc (ramwrScript s ++ writeWord s.opl.a.a2) := by
    intro l
    simp [ramwrScript, writeCommand, startData, writeWord, FramedFrom, Action.FramedAt, Action.dcLevel]
  rw [pixelScript, List.append_assoc]
  exact (selfFramed_setWindow s _ _ _ _).append data

theorem selfFramed_commandScript (c : Command) (s : State) : SelfFramed s.par.opc (commandScript c s) := by
  cases c with
  | swreset | slpout | dispon => exact selfFramed_settled _ _ _
  | caset => exact selfFramed_columnFrame s _ _
  | raset => exact selfFramed_rowFrame s _ _
  | ramwr => exact selfFramed_ramwrScript s
  | invoff => exact selfFramed_writeCommand s.par.opc .invoff []
  | invon => exact selfFramed_writeCommand s.par.opc .invon []
  | madctl => exact selfFramed_writeCommand s.par.opc .madctl [_]
  | _ => exact selfFramed_writeCommand _ _ _

theorem selfFramed_initScript (s : State) : SelfFramed s.par.opc (initScript s) := by
  have frame (c : Command) : SelfFramed s.par.opc (commandScript c s) := selfFramed_commandScript c s
  have inversion : SelfFramed s.par.opc (inversionScript s) := by
    unfold inversionScript
    split
    · exact frame .invon
    · exact frame .invoff
  have toFrmctr := (((((selfFramed_hardReset _).append (frame .swreset)).append (frame .slpout)).append
    (frame .frmctr1)).append (frame .frmctr2)).append (frame .frmctr3)
  have toVmctr := ((((((toFrmctr.append (frame .invctr)).append (frame .pwctr1)).append (frame .pwctr2)).append
    (frame .pwctr3)).append (frame .pwctr4)).append (frame .pwctr5)).append (frame .vmctr1)
  exact (((toVmctr.append inversion).append (frame .madctl)).append (frame .colmod)).append (frame .dispon)

/-- Every operation frames its own writes (30_encoding R77, R79). -/
theorem selfFramed_opScript (op : Op) (s : State) : SelfFramed s.par.opc (opScript op s) := by
  cases op with
  | init => exact selfFramed_initScript s
  | orient => exact selfFramed_writeCommand s.par.opc .madctl [_]
  | offset => exact fun _ => trivial
  | window => exact selfFramed_setWindow s _ _ _ _
  | pixel => exact selfFramed_pixelScript s
  | wpix | wpixb => exact selfFramed_ramwrScript s
  | spix | spixb => exact (selfFramed_setWindow s _ _ _ _).append (selfFramed_ramwrScript s)
  | frame c => exact selfFramed_commandScript c s

/-! ### What an action does to D/C and the bus -/

/-- A completed action leaves D/C at the level it drives, else as it was. -/
theorem performed_dcQ {a : Action} {s t : State} (hp : perform a s = (t, true)) :
    (∀ l, a.dcLevel = some l → t.dcQ = .known l) ∧ (a.dcLevel = none → t.dcQ = s.dcQ) := by
  obtain rfl : (perform a s).1 = t := by rw [hp]
  have hok : (perform a s).2 = true := by rw [hp]
  cases a with
  | drive line l =>
    cases hn : s.nextAnswer with
    | ok => cases line <;> simp [perform, hn, Action.dcLevel]
    | fail k => simp [perform, hn] at hok
  | xfer bs =>
    cases bs with
    | nil => simp [Action.dcLevel]
    | cons b bs => cases hn : s.nextAnswer <;> simp [perform, hn, Action.dcLevel]
  | delay ms => simp [Action.dcLevel]

/-- What an action delivers is a part of its write, at the D/C level before it; nothing delivered is lost. -/
theorem perform_bus (a : Action) (s : State) :
    (perform a s).1.bus = s.bus ∨ ∃ bs k, a = .xfer bs ∧
      (perform a s).1.bus = s.bus ++ (bs.take k).map (BusByte.mk s.dcQ) := by
  cases a with
  | drive line l => cases hn : s.nextAnswer <;> simp [perform, hn]
  | xfer bs =>
    cases bs with
    | nil => exact .inl rfl
    | cons b bs =>
      right
      cases hn : s.nextAnswer with
      | ok => exact ⟨_, (b :: bs).length, rfl, by simp [perform, hn]⟩
      | fail k => exact ⟨_, k, rfl, by simp [perform, hn]⟩
  | delay ms => exact .inl rfl

/-- A framed action keeps the bus framed, whether it completes or fails. -/
theorem performed_framed {a : Action} {s t : State} {b : Bool} {l : Option Level} (hp : perform a s = (t, b))
    (ha : a.FramedAt s.par.opc l) (hl : ∀ v, l = some v → s.dcQ = .known v)
    (hb : ∀ x ∈ s.bus, x.Framed s.par.opc) : ∀ x ∈ t.bus, x.Framed t.par.opc := by
  rw [(performed_kept hp).par]
  obtain rfl : (perform a s).1 = t := by rw [hp]
  obtain e | ⟨bs, k, rfl, e⟩ := perform_bus a s <;> rw [e]
  · exact hb
  · refine List.forall_mem_append.2 ⟨hb, fun x hx => ?_⟩
    obtain ⟨y, hy, rfl⟩ := List.mem_map.1 hx
    obtain h | ⟨h, c, rfl⟩ := ha
    · exact .inl (hl _ h)
    · exact .inr ⟨hl _ h, c, List.mem_singleton.1 (List.mem_of_mem_take hy)⟩

/-! ### The discipline, step by step -/

/-- While no operation runs the discipline is that of the bus alone. -/
theorem State.DcInv.of_not_running {s : State} (hf : ∀ op, s.fsm ≠ .run op)
    (hb : ∀ x ∈ s.bus, x.Framed s.par.opc) : s.DcInv :=
  ⟨fun op h => absurd h (hf op), hb⟩

/-- In a token loop the level is high, whatever operation runs. -/
theorem State.DcInv.of_high {s : State} (hpos : s.pos ≠ .script) (hd : s.dcQ = .known .hi)
    (hb : ∀ x ∈ s.bus, x.Framed s.par.opc) : s.DcInv := by
  refine ⟨fun op _ => ?_, hb⟩
  split
  · rename_i hs
    exact absurd hs hpos
  all_goals exact hd

theorem State.DcInv.level_script {s : State} {op : Op} (h : s.DcInv) (hf : s.fsm = .run op) (hpos : s.pos = .script) :
    ∀ l, lastDc ((opScript op s).take s.pc) = some l → s.dcQ = .known l := by
  have hl := h.level op hf
  rwa [hpos] at hl

theorem State.DcInv.level_high {s : State} {op : Op} (h : s.DcInv) (hf : s.fsm = .run op) (hpos : s.pos ≠ .script) :
    s.dcQ = .known .hi := by
  have hl := h.level op hf
  split at hl
  · rename_i hs
    exact absurd hs hpos
  all_goals exact hl

theorem State.DcInv.at_script {s : State} {op : Op} (hf : s.fsm = .run op) (hpos : s.pos = .script)
    (hl : ∀ l, lastDc ((opScript op s).take s.pc) = some l → s.dcQ = .known l)
    (hb : ∀ x ∈ s.bus, x.Framed s.par.opc) : s.DcInv := by
  refine ⟨fun op' hf' => ?_, hb⟩
  rw [hf] at hf'
  injection hf' with e
  subst e
  rw [hpos]
  exact hl

theorem dcInv_finish {s : State} (hb : ∀ x ∈ s.bus, x.Framed s.par.opc) : (finish s).DcInv :=
  .of_not_running (fun _ h => by cases h) hb

theorem dcInv_busError (streamOpen : Bool) {s : State} (hb : ∀ x ∈ s.bus, x.Framed s.par.opc) :
    (busError streamOpen s).DcInv :=
  .of_not_running (fun _ h => by cases streamOpen <;> cases h) hb

/-- After all straight-line actions the operation is over, or in its token loop with D/C high. -/
theorem dcInv_endScript {op : Op} {s t : State} (hd : ∀ l, lastDc (opScript op s) = some l → t.dcQ = .known l)
    (hb : ∀ x ∈ t.bus, x.Framed t.par.opc) : (endScript (opTail op) t).DcInv := by
  have high : opTail op ≠ .ends → t.dcQ = .known .hi := fun h => hd _ (lastDc_opScript h s)
  cases ht : opTail op with
  | ends => exact dcInv_finish hb
  | words => exact .of_high (by simp [endScript]) (high (by simp [ht])) hb
  | fifo => exact .of_high (by simp [endScript]) (high (by simp [ht])) hb

/-- After a completed action D/C is at the level of the script up to it. -/
theorem performed_level {script : List Action} {a : Action} {s t : State} (ha : script[s.pc]? = some a)
    (hp : perform a s = (t, true)) (hl : ∀ l, lastDc (script.take s.pc) = some l → s.dcQ = .known l) :
    ∀ l, lastDc (script.take (s.pc + 1)) = some l → t.dcQ = .known l := by
  intro l
  rw [lastDc_take_succ ha]
  obtain ⟨hset, hkeep⟩ := performed_dcQ hp
  cases hd : a.dcLevel with
  | some v => exact fun e => hset l (hd.trans e)
  | none => exact fun e => (hkeep hd).trans (hl l e)

theorem State.DcInv.scriptStep {s : State} {op : Op} (hd : s.DcInv) (hf : s.fsm = .run op) (hpos : s.pos = .script) :
    (scriptStep (opScript op s) (opTail op) s).DcInv := by
  have hl := hd.level_script hf hpos
  rcases scriptStep_cases (opScript op s) (opTail op) s with
    ⟨hend, e⟩ | ⟨a, t, b, ha, hp, hb⟩
  · rw [e]
    rw [List.take_of_length_le (List.getElem?_eq_none_iff.1 hend)] at hl
    exact dcInv_endScript hl hd.framed
  · have hfr : ∀ x ∈ t.bus, x.Framed t.par.opc :=
      performed_framed hp ((selfFramed_opScript op s none).getElem ha) (by simpa using hl) hd.framed
    rcases hb with ⟨rfl, -, e⟩ | ⟨rfl, hlen, e⟩ | ⟨-, e⟩ <;> rw [e]
    · obtain ⟨-, tfsm, tpc, -, -, tpos, -⟩ := performed_seq hp
      have hk := performed_kept hp
      refine .at_script (op := op) (tfsm.trans hf) (tpos.trans hpos) ?_ hfr
      rw [State.countAction_pc, tpc, State.countAction_dcQ,
        opScript_congr op (s := s) (t := t.countAction) hk.cfg hk.par hk.opl]
      exact performed_level ha hp hl
    · have hlast := performed_level ha hp hl
      rw [List.take_of_length_le hlen] at hlast
      exact dcInv_endScript (s := s) (t := t.countAction) hlast hfr
    · exact dcInv_busError _ hfr

/-- In a token loop D/C is high, so every write there sends data (20_memory R57). -/
theorem framed_of_high {bs : List Byte} {s t : State} {b : Bool} (hp : perform (.xfer bs) s = (t, b))
    (hhi : s.dcQ = .known .hi) (hb : ∀ x ∈ s.bus, x.Framed s.par.opc) : ∀ x ∈ t.bus, x.Framed t.par.opc :=
  performed_framed (l := some .hi) hp (.inl rfl) (fun _ e => Option.some.inj e ▸ hhi) hb

theorem dcQ_of_xfer {bs : List Byte} {s t : State} (hp : perform (.xfer bs) s = (t, true)) : t.dcQ = s.dcQ :=
  (performed_dcQ hp).2 rfl

theorem State.DcInv.wordsToken {s : State} (hd : s.DcInv) (hhi : s.dcQ = .known .hi) : (wordsToken s).DcInv := by
  unfold Machine.wordsToken
  split
  · exact hd
  · exact .of_high (by simp) hhi hd.framed
  · exact dcInv_finish hd.framed

theorem State.DcInv.fifoToken {s t : State} (hd : s.DcInv) (hhi : s.dcQ = .known .hi) (h : fifoToken s = .next t) :
    t.DcInv := by
  rcases fifoToken_cases h with ⟨-, rfl⟩ | ⟨w, rest, m, -, -, rfl⟩ | ⟨rest, -, -, rfl⟩ | ⟨rest, -, -, rfl⟩
  · exact hd
  · exact .of_high (by dsimp only; split <;> simp) hhi hd.framed
  · exact dcInv_finish hd.framed
  · exact .of_high (by simp) hhi hd.framed

theorem State.DcInv.writeStep {s : State} (hd : s.DcInv) (hhi : s.dcQ = .known .hi) (w : Word) :
    (writeStep w s).DcInv := by
  obtain ⟨t, b, hp, hb⟩ := writeStep_cases w s
  have hfr := framed_of_high hp hhi hd.framed
  rcases hb with ⟨rfl, e⟩ | ⟨-, e⟩ <;> rw [e]
  · exact .of_high (by simp) ((dcQ_of_xfer hp).trans hhi) hfr
  · exact dcInv_busError _ hfr

theorem State.DcInv.flushStep {s t : State} {last : Bool} (hd : s.DcInv) (hhi : s.dcQ = .known .hi)
    (h : flushStep last s = .next t) : t.DcInv := by
  obtain ⟨bs, u, b, -, hp, hb⟩ := flushStep_cases h
  have hfr := framed_of_high hp hhi hd.framed
  rcases hb with ⟨-, -, rfl⟩ | ⟨rfl, -, rfl⟩ | ⟨-, rfl⟩
  · exact dcInv_finish hfr
  · exact .of_high (by simp) ((dcQ_of_xfer hp).trans hhi) hfr
  · exact dcInv_busError _ hfr

/-- A step of a running operation, by the place it stands at. -/
theorem State.DcInv.runStep {s t : State} {op : Op} (hd : s.DcInv) (hf : s.fsm = .run op)
    (h : runStep (opScript op s) (opTail op) s = .next t) : t.DcInv := by
  have high : s.pos ≠ .script → s.dcQ = .known .hi := hd.level_high hf
  rcases runStep_cases h with ⟨hpos, rfl⟩ | ⟨hpos, htok⟩ | ⟨w, hpos, rfl⟩ | ⟨last, hpos, hfl⟩
  · exact hd.scriptStep hf hpos
  · rcases htok with ⟨-, hfifo⟩ | ⟨-, rfl⟩ | ⟨-, rfl⟩
    · exact hd.fifoToken (high (by simp [hpos])) hfifo
    · exact hd.wordsToken (high (by simp [hpos]))
    · exact dcInv_finish hd.framed
  · exact hd.writeStep (high (by simp [hpos])) w
  · exact hd.flushStep (high (by simp [hpos])) hfl

/-- A start has performed nothing yet. -/
theorem State.DcInv.startOf {s : State} (hd : s.DcInv) (i : Instr) : (startOf i s).DcInv := by
  obtain ⟨-, -, -, -, hpar, -, -, -, -, -, -, -, hbus, -, -, -, -, -, hpc, hpos, hfsm⟩ := startOf_fields i s
  refine .at_script hfsm hpos (fun l h => ?_) (by rw [hbus, hpar]; exact hd.framed)
  rw [hpc, List.take_zero] at h
  cases h

theorem State.DcInv.drainToken {s : State} (hd : s.DcInv) (hf : s.fsm = .drain) : (drainToken s).DcInv := by
  unfold Machine.drainToken
  split
  · exact hd
  · exact .of_not_running (fun _ h => by cases hf.symm.trans h) hd.framed
  · exact .of_not_running (fun _ h => by cases h) hd.framed

theorem State.DcInv.blockStep {s t : State} (hd : s.DcInv) (h : blockStep s = .next t) : t.DcInv := by
  rcases blockStep_by_fsm h with ⟨hf, rfl | rfl | ⟨i, -, rfl⟩⟩ | ⟨-, rfl⟩ | ⟨op, hf, -, hr⟩ | ⟨hf, rfl⟩
  · exact hd
  · exact .of_not_running (fun _ h => by cases hf.symm.trans h) hd.framed
  · exact hd.startOf i
  · exact dcInv_finish (s := writeOffset s) hd.framed
  · exact hd.runStep hf hr
  · exact hd.drainToken hf

/-- The discipline speaks of the sequencer, the latch, D/C and the bus alone. -/
theorem State.DcInv.congr {s t : State} (hd : s.DcInv) (hcfg : t.cfg = s.cfg) (hpar : t.par = s.par)
    (hopl : t.opl = s.opl) (hfsm : t.fsm = s.fsm) (hpos : t.pos = s.pos) (hpc : t.pc = s.pc) (hdcQ : t.dcQ = s.dcQ)
    (hbus : t.bus = s.bus) : t.DcInv := by
  refine ⟨fun op hf => ?_, by rw [hbus, hpar]; exact hd.framed⟩
  rw [hpos, hpc, hdcQ, opScript_congr op hcfg hpar hopl]
  exact hd.level op (hfsm ▸ hf)

theorem State.DcInv.hostMove {s t : State} (hd : s.DcInv) (h : hostTurn s = .host t) : t.DcInv := by
  rcases hostTurn_host h with ⟨-, rfl⟩ | ⟨-, e⟩
  · exact .of_not_running (fun _ h => by cases h) (fun _ hx => absurd hx List.not_mem_nil)
  · rw [e]
    exact hd.congr rfl rfl rfl rfl rfl rfl rfl rfl

theorem State.DcInv.turn {s u : State} (hd : s.DcInv) (h : hostTurn s = .block u) : u.DcInv := by
  rcases hostTurn_block h with rfl | ⟨rest, -, rfl⟩
  · exact hd
  · exact hd.congr rfl rfl rfl rfl rfl rfl rfl rfl

/-- Settles O5, by cases of the step: the host's move touches nothing the discipline speaks of or resets the block, and
each move of the block keeps it, because every operation's own actions frame its writes. -/
theorem everyStepKeepsTheDcDiscipline : Obligations.EveryStepKeepsTheDcDiscipline := by
  intro s t _ hd h
  rcases step_cases h with hh | ⟨u, hu, hb⟩
  · exact hd.hostMove hh
  · exact (hd.turn hu).blockStep hb

end Sys2Proof.Machine

/-! Straps and parameters, and the host's register port. -/

namespace Sys2Proof.Machine

/-- The block's move keeps straps and parameters (20_memory R65). -/
theorem blockStep_cfg_par {s t : State} (h : blockStep s = .next t) : t.cfg = s.cfg ∧ t.par = s.par := by
  rcases blockStep_by_fsm h with ⟨-, rfl | rfl | ⟨i, -, rfl⟩⟩ | ⟨-, rfl⟩ | ⟨op, -, -, hr⟩ | ⟨-, rfl⟩
  · exact ⟨rfl, rfl⟩
  · exact ⟨rfl, rfl⟩
  · obtain ⟨hcfg, -, -, -, hpar, -⟩ := startOf_fields i s
    exact ⟨hcfg, hpar⟩
  · exact ⟨rfl, rfl⟩
  · have hk := runStep_kept hr
    exact ⟨hk.cfg, hk.par⟩
  · have hk := drainToken_kept s
    exact ⟨hk.cfg, hk.par⟩

/-- Settles O16: the host's move keeps them, a block reset among them, and so does the block's. -/
theorem noStepChangesStrapsOrParameters : Obligations.NoStepChangesStrapsOrParameters := by
  intro s t h
  rcases step_cases h with hh | ⟨u, hu, hb⟩
  · obtain ⟨-, rfl⟩ | ⟨-, e⟩ := hostTurn_host hh
    · exact ⟨rfl, rfl⟩
    · rw [e]
      exact ⟨rfl, rfl⟩
  · obtain ⟨host, rfl⟩ := exists_host_of_hostTurn_block hu
    exact blockStep_cfg_par (s := { s with host := host }) hb

/-! ### The register port -/

theorem State.busy_eq_decide (s : State) : s.busy = decide (s.fsm ≠ .idle) := by
  rw [Bool.eq_iff_iff, decide_eq_true_iff]
  exact s.busy_iff

/-- BUSY, ERR and ILL in bits 0 to 2, and nothing above (20_memory R61). -/
theorem State.statusWord_bits (s : State) :
    s.statusWord.getLsbD 0 = s.busy ∧ s.statusWord.getLsbD 1 = s.err ∧ s.statusWord.getLsbD 2 = s.ill ∧
      s.statusWord.toNat < 8 := by
  unfold State.statusWord
  cases s.busy <;> cases s.err <;> cases s.ill <;> decide

/-- RGB and INVERTED in bits 0 and 1, and nothing above (20_memory R61). -/
theorem State.cfgWord_bits (s : State) :
    s.cfgWord.getLsbD 0 = s.cfg.rgb ∧ s.cfgWord.getLsbD 1 = s.cfg.inverted ∧ s.cfgWord.toNat < 4 := by
  unfold State.cfgWord
  cases s.cfg.rgb <;> cases s.cfg.inverted <;> decide

/-- The unmapped addresses read 0 (20_memory R61). -/
theorem State.readReg_unmapped (s : State) {a : RegAddr} (h : 9 < a) : s.readReg a = 0 := by
  have ha : 9 < a.toNat := h
  unfold State.readReg
  split <;> first | omega | rfl

/-- Settles O43: the reply is `readReg`, address by address. -/
theorem registerReadsFollowTheMap : Obligations.RegisterReadsFollowTheMap := by
  intro s a more h
  have hstep : step s = .next { s with host := more, rdata := some (s.readReg a) } := by
    simp only [step, hostTurn, h]
    rfl
  refine ⟨s.readReg a, hstep, ?_, ?_, ?_, ?_, ?_, ?_, ?_, ?_, ?_, ?_, s.readReg_unmapped⟩ <;> rintro rfl
  case refine_5 => exact s.busy_eq_decide ▸ s.statusWord_bits
  case refine_8 => exact s.cfgWord_bits
  all_goals rfl

/-- A write sets the operand register it names, if it names one (20_memory R61). -/
theorem State.writeReg_eq (s : State) (a : RegAddr) (v : Word) :
    s.writeReg a v = { s with arg :=
      ⟨if a = 0 then v else s.arg.a0, if a = 1 then v else s.arg.a1,
       if a = 2 then v else s.arg.a2, if a = 3 then v else s.arg.a3⟩ } := by
  have named {k : RegAddr} (e : a.toNat = k.toNat) : a = k := BitVec.eq_of_toNat_eq e
  unfold State.writeReg
  split
  case h_1 e => obtain rfl := named (k := 0) e; rfl
  case h_2 e => obtain rfl := named (k := 1) e; rfl
  case h_3 e => obtain rfl := named (k := 2) e; rfl
  case h_4 e => obtain rfl := named (k := 3) e; rfl
  case h_5 e0 e1 e2 e3 =>
    rw [if_neg fun h => e0 (congrArg _ h), if_neg fun h => e1 (congrArg _ h), if_neg fun h => e2 (congrArg _ h),
      if_neg fun h => e3 (congrArg _ h)]

/-- Settles O44: the host's move is the write. -/
theorem registerWritesReachOnlyTheOperands : Obligations.RegisterWritesReachOnlyTheOperands := by
  intro s a v more h
  simp only [step, hostTurn, h, State.writeReg_eq]

end Sys2Proof.Machine

/-! Each instruction's actions are the events of the spec's tables, and what one of them does, answered OK or FAIL. -/

namespace Sys2Proof.Machine

open Sys2Proof.Spec

/-! ### The scripts and the spec's tables of events -/

/-- The model's two bytes of a word are the tables' (20_memory R56). -/
theorem wordBytes_eq_bigEndian (w : Word) : wordBytes w = bigEndian w := by
  have hi : w.extractLsb' 8 8 = hiByte w := by
    apply BitVec.eq_of_toNat_eq
    simp [hiByte, BitVec.extractLsb'_toNat, Nat.shiftRight_eq_div_pow]
  have lo : w.extractLsb' 0 8 = loByte w := by
    apply BitVec.eq_of_toNat_eq
    simp [loByte, BitVec.extractLsb'_toNat]
  rw [wordBytes, hi, lo, bigEndian]

theorem okEvents_writeCommand_nil (opc : OpcTable) (c : Command) :
    (writeCommand opc c []).map Action.okEvent = [dc0, wr [opc.opcode c]] := rfl

/-- A frame with parameters (40_framer R100). -/
theorem okEvents_writeCommand (opc : OpcTable) (c : Command) {ps : List Byte} (h : 1 ≤ ps.length) :
    (writeCommand opc c ps).map Action.okEvent = [dc0, wr [opc.opcode c], dc1, wr ps] := by
  cases ps with
  | nil => exact absurd h (by simp)
  | cons p ps => rfl

theorem okEvents_writeWord (w : Word) : (writeWord w).map Action.okEvent = [wr (bigEndian w)] := by
  rw [← wordBytes_eq_bigEndian]
  rfl

theorem okEvents_columnFrame (s : State) (x0 x1 : Word) :
    (columnFrame s x0 x1).map Action.okEvent = casetEvents s.par.opc (x0 + s.opl.dx) (x1 + s.opl.dx) := by
  simp only [columnFrame, List.map_append, okEvents_writeCommand_nil, okEvents_writeWord]
  rfl

theorem okEvents_rowFrame (s : State) (y0 y1 : Word) :
    (rowFrame s y0 y1).map Action.okEvent = rasetEvents s.par.opc (y0 + s.opl.dy) (y1 + s.opl.dy) := by
  simp only [rowFrame, List.map_append, okEvents_writeCommand_nil, okEvents_writeWord]
  rfl

theorem okEvents_setWindow (s : State) (sx sy ex ey : Word) :
    (setWindow s sx sy ex ey).map Action.okEvent = windowEvents s.par.opc s.opl.dx s.opl.dy sx sy ex ey := by
  rw [setWindow, List.map_append, okEvents_columnFrame, okEvents_rowFrame]
  rfl

theorem okEvents_ramwrScript (s : State) : (ramwrScript s).map Action.okEvent = ramwrEvents s.par.opc := rfl

theorem okEvents_pixelScript (s : State) :
    (pixelScript s).map Action.okEvent =
      pixelEvents s.par.opc s.opl.dx s.opl.dy s.opl.a.a0 s.opl.a.a1 s.opl.a.a2 := by
  simp only [pixelScript, List.map_append, okEvents_setWindow, okEvents_ramwrScript, okEvents_writeWord]
  rfl

theorem okEvents_windowedScript (s : State) :
    (windowedScript s).map Action.okEvent =
      windowEvents s.par.opc s.opl.dx s.opl.dy s.opl.a.a0 s.opl.a.a1 s.opl.a.a2 s.opl.a.a3
        ++ ramwrEvents s.par.opc := by
  rw [windowedScript, List.map_append, windowScript, okEvents_setWindow, okEvents_ramwrScript]

/-- 43_orientation R150: the colour-order bit is set unless RGB. -/
theorem orientByte_eq (par : Params) (cfg : Straps) (m : Mode) :
    orientByte par cfg m = par.orientBase.base m ||| (if cfg.rgb then 0x00 else 0x08) := by
  unfold orientByte
  split <;> simp

theorem okEvents_orientScript (m : Mode) (s : State) :
    (orientScript m s).map Action.okEvent = orientEvents s.par s.cfg m := by
  rw [orientScript, okEvents_writeCommand _ _ (by simp), orientByte_eq]
  rfl

/-- The frames of the bring-up, where the parameters fit (42_bringup R130, R132). -/
theorem okEvents_commandScript {s : State} (hf : s.par.initParams.Fits) {c : Command} (hc : c ∈ bringUpCommands) :
    (commandScript c s).map Action.okEvent = bringUpFrame s.par s.cfg c := by
  have pos : ∀ l ∈ s.par.initParams.entries, 1 ≤ l.length := fun l hl => (hf l hl).1
  cases c with
  | swreset | slpout | dispon | invoff | invon | madctl => rfl
  | caset | raset | ramwr => exact absurd hc (by decide)
  | frmctr1 | frmctr2 | frmctr3 | invctr | pwctr1 | pwctr2 | pwctr3 | pwctr4 | pwctr5 | vmctr1 | colmod =>
    exact okEvents_writeCommand _ _ (pos _ (by simp [InitParams.entries]))

/-- The 64 actions of INIT (42_bringup R137). -/
theorem okEvents_initScript {s : State} (hf : s.par.initParams.Fits) :
    (initScript s).map Action.okEvent = initEvents s.par s.cfg := by
  have inversion : (inversionScript s).map Action.okEvent =
      [dc0, wr [if s.cfg.inverted then s.par.opc.invon else s.par.opc.invoff]] := by
    unfold inversionScript
    split <;> rfl
  have script : initScript s = hardReset ++ commandScript .swreset s ++ commandScript .slpout s
    ++ commandScript .frmctr1 s ++ commandScript .frmctr2 s ++ commandScript .frmctr3 s ++ commandScript .invctr s
    ++ commandScript .pwctr1 s ++ commandScript .pwctr2 s ++ commandScript .pwctr3 s ++ commandScript .pwctr4 s
    ++ commandScript .pwctr5 s ++ commandScript .vmctr1 s ++ inversionScript s ++ commandScript .madctl s
    ++ commandScript .colmod s ++ commandScript .dispon s := rfl
  simp (disch := decide) only [script, List.map_append, okEvents_commandScript hf, inversion]
  simp [hardReset, Action.okEvent, bringUpFrame, initEvents]

/-- The actions of a script are these events, and none of its writes is empty or too long (20_memory R53, R59). -/
structure Emits (script : List Action) (evs : List Event) : Prop where
  okEvents : script.map Action.okEvent = evs
  widths : ∀ a ∈ script, a.WidthOk

theorem Emits.of_inFrame {script : List Action} {evs : List Event} (he : script.map Action.okEvent = evs)
    (hw : ∀ a ∈ script, a.InFrame) : Emits script evs :=
  ⟨he, fun a ha => (hw a ha).widthOk⟩

/-- INIT and the commands it sends, whose scripts take parameters from `INIT_PARAMS` (42_bringup R130, R132). -/
abbrev FromBringUp (i : Instr) : Prop := i = .init ∨ ∃ c ∈ bringUpCommands, i = c.instr

theorem events_command (s : State) {c : Command} (hc : c ∈ bringUpCommands) :
    events c.instr s = bringUpFrame s.par s.cfg c := by
  cases c with
  | caset | raset | ramwr => exact absurd hc (by decide)
  | _ => rfl

theorem emits_commandScript {c : Command} {s : State} (hfit : FromBringUp c.instr → s.par.initParams.Fits) :
    Emits (commandScript c s) (events c.instr s) := by
  by_cases hc : c ∈ bringUpCommands
  · have hf := hfit (.inr ⟨c, hc, rfl⟩)
    rw [events_command s hc]
    exact .of_inFrame (okEvents_commandScript hf hc) (inFrame_commandScript hf c)
  · cases c with
    | caset => exact .of_inFrame (okEvents_columnFrame s _ _) (inFrame_columnFrame s _ _)
    | raset => exact .of_inFrame (okEvents_rowFrame s _ _) (inFrame_rowFrame s _ _)
    | ramwr => exact .of_inFrame (okEvents_ramwrScript s) (inFrame_ramwrScript s)
    | _ => exact absurd (by decide) hc

/-- Every instruction's script is its table of events. -/
theorem emits_instrScript {i : Instr} {s : State} (hfit : FromBringUp i → s.par.initParams.Fits) :
    Emits (instrScript i s) (events i s) := by
  obtain ⟨m, hm⟩ := exists_eq_op_instr i
  generalize i.op = op at hm
  subst hm
  cases op with
  | init => exact ⟨okEvents_initScript (hfit (.inl rfl)), widthOk_initScript (hfit (.inl rfl))⟩
  | orient => exact .of_inFrame (okEvents_orientScript m s) (inFrame_writeCommand _ _ (ps := [_]) (by simp [fifoBytes]))
  | offset => exact ⟨rfl, fun _ h => absurd h List.not_mem_nil⟩
  | window => exact .of_inFrame (okEvents_setWindow s _ _ _ _) (inFrame_setWindow s _ _ _ _)
  | pixel => exact .of_inFrame (okEvents_pixelScript s) (inFrame_pixelScript s)
  | wpix | wpixb => exact .of_inFrame (okEvents_ramwrScript s) (inFrame_ramwrScript s)
  | spix | spixb => exact .of_inFrame (okEvents_windowedScript s) (inFrame_windowedScript s)
  | frame c =>
    show Emits (instrScript c.instr s) _
    rw [instrScript_command]
    exact emits_commandScript hfit

/-- The event at an index is that of the action there. -/
theorem Emits.getElem {script : List Action} {evs : List Event} (h : Emits script evs) {j : Nat} {e : Event}
    (he : evs[j]? = some e) : ∃ a, script[j]? = some a ∧ a.WidthOk ∧ a.okEvent = e := by
  rw [← h.okEvents, List.getElem?_map, Option.map_eq_some_iff] at he
  obtain ⟨a, ha, rfl⟩ := he
  exact ⟨a, ha, h.widths a (List.mem_of_getElem? ha), rfl⟩

theorem Emits.length {script : List Action} {evs : List Event} (h : Emits script evs) : evs.length = script.length := by
  rw [← h.okEvents, List.length_map]

/-! ### One event -/

theorem completed_pos (e : Event) (s : State) : (completed e s).pos = s.pos := by
  rcases e with ⟨_ | _, _, _⟩ | _ | _ <;> rfl

theorem Action.WidthOk.ne_nil {bs : List Byte} (h : (Action.xfer bs).WidthOk) : bs ≠ [] :=
  List.ne_nil_of_length_pos h.1

/-- An action whose event is answered OK completes it (20_memory R52 to R54). -/
theorem perform_completed {a : Action} {s : State} (hw : a.WidthOk) (ha : Answered a.okEvent s) :
    ∃ t, perform a s = (t, true) ∧ t.countAction = completed a.okEvent s := by
  cases a with
  | drive l v => exact ⟨_, perform_drive_ok ha, by cases l <;> rfl⟩
  | xfer bs => exact ⟨_, perform_xfer_ok hw.ne_nil ha, rfl⟩
  | delay ms => exact ⟨_, rfl, rfl⟩

/-- An action answered FAIL aborts at its event (20_memory R52, R53, R60; 60_exceptions R202). -/
theorem perform_aborted {a : Action} {s : State} {k : Nat} (hw : a.WidthOk) (ha : fallible a.okEvent = true)
    (hk : s.nextAnswer = .fail k) :
    ∃ t, perform a s = (t, false) ∧ ∀ streamOpen, busError streamOpen t = aborted a.okEvent k streamOpen s := by
  cases a with
  | drive l v => exact ⟨_, perform_drive_fail hk, fun _ => by cases l <;> rfl⟩
  | xfer bs => exact ⟨_, perform_xfer_fail hw.ne_nil hk, fun _ => rfl⟩
  | delay ms => cases ha

section OneEvent

variable {script : List Action} {evs : List Event} {s : State} {e : Event} (h : Emits script evs)
  (he : evs[s.pc]? = some e)

include h he

theorem scriptStep_completed (tail : Tail) (ha : Answered e s) :
    scriptStep script tail s =
      if s.pc + 1 < evs.length then completed e s else endScript tail (completed e s) := by
  obtain ⟨a, hs, hw, rfl⟩ := h.getElem he
  obtain ⟨t, hp, ht⟩ := perform_completed hw ha
  rw [scriptStep_ok hs hp, ht, h.length]

theorem scriptStep_aborted (tail : Tail) {k : Nat} (hfall : fallible e = true) (hk : s.nextAnswer = .fail k) :
    scriptStep script tail s = aborted e k (tail ≠ .ends) s := by
  obtain ⟨a, hs, hw, rfl⟩ := h.getElem he
  obtain ⟨t, hp, ht⟩ := perform_aborted hw hfall hk
  rw [scriptStep_fail hs hp, ht]

end OneEvent

section RunningInstr

variable {i : Instr} {s : State} {e : Event} (hfit : FromBringUp i → s.par.initParams.Fits)
  (hf : s.fsm = .run i.op) (hpos : s.pos = .script) (he : (events i s)[s.pc]? = some e)

include hf hpos he

/-- An instruction at one of its listed events takes a step of its script. -/
theorem exec_at_event : exec i s = .next (scriptStep (instrScript i s) (opTail i.op) s) := by
  have hoff : i ≠ .offset := by
    rintro rfl
    cases he
  rw [exec_running hf hoff, runStep_script hpos]

include hfit

/-- Whichever event an instruction stands at, answered OK it completes it, and the last one ends its script. -/
theorem exec_completed (ha : Answered e s) :
    exec i s = .next (if s.pc + 1 < (events i s).length then completed e s
                      else endScript (opTail i.op) (completed e s)) := by
  rw [exec_at_event hf hpos he, scriptStep_completed (emits_instrScript hfit) he _ ha]

/-- Whichever event an instruction stands at, answered FAIL it aborts there. -/
theorem exec_aborted {k : Nat} (hfall : fallible e = true) (hk : s.nextAnswer = .fail k) :
    exec i s = .next (aborted e k (opTail i.op ≠ .ends) s) := by
  rw [exec_at_event hf hpos he, scriptStep_aborted (emits_instrScript hfit) he _ hfall hk]

/-- An operation without a token loop is idle after its last event (log 14). -/
theorem exec_completed_ends (ht : opTail i.op = .ends) (ha : Answered e s) :
    exec i s = .next (if s.pc + 1 = (events i s).length then { completed e s with fsm := .idle }
                      else completed e s) := by
  obtain ⟨hlt, -⟩ := List.getElem?_eq_some_iff.1 he
  have hfinish : finish (completed e s) = { completed e s with fsm := .idle } := by
    rw [finish, ← hpos, ← completed_pos e s]
  rw [exec_completed hfit hf hpos he ha, ht]
  split_ifs with h1 h2 h2
  · omega
  · rfl
  · exact congrArg _ hfinish
  · omega

end RunningInstr

/-- Settles O22: INIT's script is the table of 64 events. -/
theorem initCompletesEachEvent : Obligations.InitCompletesEachEvent := by
  intro s e hf hpos hfit he ha
  rw [exec_completed_ends (i := .init) (fun _ => hfit) hf hpos he rfl ha]
  simp [events, initEvents]

/-- Settles O23: ORIENT's script is the four events, whatever the mode. -/
theorem orientCompletesEachEvent : Obligations.OrientCompletesEachEvent := by
  intro s m e hf hpos he ha
  have hfit : ¬ FromBringUp (.orient m) := by cases m <;> decide
  rw [exec_completed_ends (i := .orient m) (fun h => absurd h hfit) hf hpos he rfl ha]
  simp [events, orientEvents]

/-- Settles O24: the scripts of the window and of its two frames are their tables. -/
theorem windowCompletesEachEvent : Obligations.WindowCompletesEachEvent := by
  intro s i e hi hf hpos he ha
  have hfit : ¬ FromBringUp i := by rcases hi with rfl | rfl | rfl <;> decide
  have ht : opTail i.op = .ends := by rcases hi with rfl | rfl | rfl <;> rfl
  exact exec_completed_ends (fun h => absurd h hfit) hf hpos he ht ha

/-- Settles O25: the scripts of PIXEL and of the RAMWR frame are their tables. -/
theorem pixelCompletesEachEvent : Obligations.PixelCompletesEachEvent := by
  intro s i e hi hf hpos he ha
  have hfit : ¬ FromBringUp i := by rcases hi with rfl | rfl <;> decide
  have ht : opTail i.op = .ends := by rcases hi with rfl | rfl <;> rfl
  exact exec_completed_ends (fun h => absurd h hfit) hf hpos he ht ha

/-- Settles O26: a command's script is the frame the bring-up gives it. -/
theorem bringUpCommandsCompleteEachEvent : Obligations.BringUpCommandsCompleteEachEvent := by
  intro s c e hc hf hpos hfit he ha
  rw [← events_command s hc] at he ⊢
  have hop : c.instr.op = .frame c := Command.instr_op c
  exact exec_completed_ends (fun _ => hfit) (hop ▸ hf) hpos he (by rw [hop]; rfl) ha

/-- Settles O27: after the last event of its head a stream is at its token loop. -/
theorem streamsCompleteEachHeadEvent : Obligations.StreamsCompleteEachHeadEvent := by
  intro s i e hi hf hpos he ha
  have hfit : ¬ FromBringUp i := by rcases hi with rfl | rfl | rfl | rfl <;> decide
  have htail : endScript (opTail i.op) (completed e s) =
      if i = .wpix ∨ i = .spix then { completed e s with pos := .token }
      else { completed e s with pos := .token, idx := 0 } := by
    rcases hi with rfl | rfl | rfl | rfl <;> rfl
  rw [exec_completed (fun h => absurd h hfit) hf hpos he ha, htail]

/-- The operations with a token loop are the streams (10_state R39). -/
theorem opTail_ne_ends_iff (i : Instr) : opTail i.op ≠ .ends ↔ streams i := by
  cases i <;> simp [Instr.op, opTail, streams]

/-- Settles O31: the abort drains exactly where a token loop would follow. -/
theorem failedEventAbortsTheOperation : Obligations.FailedEventAbortsTheOperation := by
  intro s i e k streamOpen hopen hf hpos hfit he hfall hk
  have htail : decide (opTail i.op ≠ .ends) = streamOpen := by
    rw [Bool.eq_iff_iff, decide_eq_true_iff, opTail_ne_ends_iff, hopen]
  rw [exec_aborted (fun _ => hfit) hf hpos he hfall hk, htail]

/-! ### A failed write in a token loop -/

theorem writeStep_aborted (w : Word) {s : State} {k : Nat} (hk : s.nextAnswer = .fail k) :
    writeStep w s = aborted (wr (bigEndian w)) k true s := by
  obtain ⟨t, hp, ht⟩ := perform_aborted (wordBytes_widthOk w) rfl hk
  unfold writeStep
  rw [hp, ← wordBytes_eq_bigEndian]
  exact ht true

theorem flushStep_aborted {last : Bool} {s : State} {bs : List Byte} {k : Nat} (hr : s.buf.read 0 s.idx = some bs)
    (hw : (Action.xfer bs).WidthOk) (hk : s.nextAnswer = .fail k) :
    flushStep last s = .next (aborted (wr bs) k (!last) s) := by
  obtain ⟨t, hp, ht⟩ := perform_aborted hw rfl hk
  unfold flushStep
  rw [hr]
  dsimp only
  rw [hp]
  exact congrArg _ (ht _)

/-- Settles O32: the held word, or the front of the FIFO that the invariant says is written, is the failed write. -/
theorem failedStreamWriteAborts : Obligations.FailedStreamWriteAborts := by
  intro s i k hinv hf hk
  refine ⟨fun w hi hpos => ?_, fun last hi hpos => ?_⟩
  · have hoff : i ≠ .offset := by rcases hi with rfl | rfl <;> decide
    rw [exec_running hf hoff, runStep_write hpos, writeStep_aborted w hk]
  · have hoff : i ≠ .offset := by rcases hi with rfl | rfl <;> decide
    have hplace : s.PlaceOk i.op := hinv.place _ hf
    unfold State.PlaceOk at hplace
    rw [hpos] at hplace
    obtain ⟨-, hidx, hwritten, -⟩ := hplace
    obtain ⟨bs, hr, hlen, hbs⟩ := hwritten.read
    refine ⟨bs, hlen, hbs, ?_⟩
    rw [exec_running hf hoff, runStep_flush hpos]
    exact flushStep_aborted hr ⟨hlen ▸ hidx, hlen ▸ hinv.idxTop⟩ hk

end Sys2Proof.Machine

/-! The encoding: the legal words against the decoder and the encoder, and the port actions of program lines. -/

namespace Sys2Proof.Machine

open Sys2Proof.Spec

/-! ### The command words -/

/-- A word with no reserved bit set is one of 64, so that a table of these decides what holds of it (30_encoding R70). -/
theorem forall_unreserved {P : Word → Prop} (table : ∀ n : Fin 64, P (BitVec.ofNat 16 n)) {w : Word}
    (hw : w.toNat < 64) : P w := by
  simpa using table ⟨w.toNat, hw⟩

/-- A word that decodes has no reserved bit set (30_encoding R73). -/
theorem unreserved_of_decodeCommand {w : Word} {i : Instr} (h : decodeCommand w = .instr i) : w.toNat < 64 := by
  by_contra hw
  rw [decodeCommand_of_reserved (Nat.le_of_not_lt hw)] at h
  cases h

theorem unreserved_of_legal {w : Word} (h : legal w = true) : w.toNat < 64 := by
  simp only [legal, Bool.and_eq_true, beq_iff_eq] at h
  obtain ⟨⟨hrsv, -⟩, -⟩ := h
  exact rsvField_eq_zero_iff.1 hrsv

/-- The converse of `decodeCommand_of_legal`. -/
theorem mem_legalWords_of_decodeCommand {w : Word} {i : Instr} (h : decodeCommand w = .instr i) :
    (w, i) ∈ legalWords := by
  have table : ∀ n : Fin 64, ∀ j ∈ (decodeCommand (BitVec.ofNat 16 n)).toOption,
      (BitVec.ofNat 16 n, j) ∈ legalWords := by decide
  exact forall_unreserved (P := fun v => ∀ j ∈ (decodeCommand v).toOption, (v, j) ∈ legalWords) table
    (unreserved_of_decodeCommand h) i (by rw [h]; rfl)

theorem legal_of_mem_legalWords {w : Word} {i : Instr} (h : (w, i) ∈ legalWords) : legal w = true := by
  have table : ∀ p ∈ legalWords, legal p.1 = true := by decide
  exact table (w, i) h

/-- The converse of `legal_of_mem_legalWords`. -/
theorem exists_mem_legalWords_of_legal {w : Word} (h : legal w = true) : ∃ i, (w, i) ∈ legalWords := by
  have table : ∀ n : Fin 64, legal (BitVec.ofNat 16 n) = true → ∃ p ∈ legalWords, p.1 = BitVec.ofNat 16 n := by decide
  obtain ⟨⟨_, i⟩, hmem, rfl⟩ := forall_unreserved (P := fun v => legal v = true → ∃ p ∈ legalWords, p.1 = v) table
    (unreserved_of_legal h) h
  exact ⟨i, hmem⟩

/-- A legal word is what its instruction is encoded as, whatever the catalog (30_encoding R71, R72). -/
theorem encode_of_legal (t : OpcTable) {w : Word} {i : Instr} (h : (w, i) ∈ legalWords) : encode t i = .command w := by
  have table : ∀ p ∈ legalWords, encode t p.2 = .command p.1 := by
    simp [legalWords, encode, Mode.bits]
  exact table (w, i) h

/-! ### Decoding and encoding -/

/-- Settles O8: a host operation is encoded as its legal word, a controller opcode as its own catalog value. -/
theorem decodeOfEncodeIsTheInstruction : Obligations.DecodeOfEncodeIsTheInstruction := by
  intro t i hdistinct
  rcases exists_legal_or_command i with ⟨w, hw⟩ | ⟨c, rfl⟩
  · rw [encode_of_legal t hw]
    exact decodeCommand_of_legal hw
  · rw [encode_command_instr]
    exact decodeOpcode_opcode hdistinct c

/-- Settles O7, by the 64 words that have no reserved bit set. -/
theorem decodingAcceptsExactlyTheLegalWords : Obligations.DecodingAcceptsExactlyTheLegalWords := by
  refine ⟨fun w i => ⟨mem_legalWords_of_decodeCommand, decodeCommand_of_legal⟩, fun w => ?_⟩
  exact ⟨exists_mem_legalWords_of_legal, fun ⟨_, h⟩ => legal_of_mem_legalWords h⟩

/-- Settles O9: a command word that decodes is a legal word, an opcode that decodes is its command's catalog value. -/
theorem encodeOfDecodeIsTheEncoding : Obligations.EncodeOfDecodeIsTheEncoding := by
  intro t e i h
  cases e with
  | command w => exact encode_of_legal t (mem_legalWords_of_decodeCommand h)
  | opcode b =>
    obtain ⟨c, rfl, hc⟩ := decodeOpcode_eq_instr h
    rw [encode_command_instr, hc]

/-- Settles O6: the words are literals, and the decoder computes. -/
theorem specWordsDecode : Obligations.SpecWordsDecode := by
  unfold Obligations.SpecWordsDecode
  decide

/-! ### The port actions of program lines -/

/-- Tokens change nothing when the last word was legal. -/
theorem tokensAfterLegal_offerTokens (ks : List Token) (rest : List HostAction) :
    tokensAfterLegal true (ks.map .offerToken ++ rest) = tokensAfterLegal true rest := by
  induction ks with
  | nil => rfl
  | cons k ks ih => exact ih

/-- A legal word issued with its stream leaves a legal word last, whatever was last before it. -/
theorem tokensAfterLegal_issue {w : Word} (hw : legal w = true) (ks : List Token) (b : Bool) (rest : List HostAction) :
    tokensAfterLegal b (issue w ks ++ rest) = tokensAfterLegal true rest := by
  simp only [issue, List.append_assoc, List.cons_append, List.nil_append, tokensAfterLegal, hw]
  exact tokensAfterLegal_offerTokens ks _

/-- A line writes operand registers and then issues a legal word, so it too leaves a legal word last (30_encoding R81). -/
theorem tokensAfterLegal_expand (l : AsmLine) (b : Bool) (rest : List HostAction) :
    tokensAfterLegal b (l.expand ++ rest) = tokensAfterLegal true rest := by
  cases l with
  | orient m => exact tokensAfterLegal_issue (by cases m <;> decide) [] b rest
  | _ => exact tokensAfterLegal_issue (by decide) _ b rest

/-- Settles O47, by induction on the lines: each leaves a legal word last. -/
theorem programsOfferTokensOnlyAfterLegalWords : Obligations.ProgramsOfferTokensOnlyAfterLegalWords := by
  have hprogram (ls : List AsmLine) : ∀ b, tokensAfterLegal b (program ls) = true := by
    induction ls with
    | nil => exact fun b => rfl
    | cons l ls ih => exact fun b => (tokensAfterLegal_expand l b (program ls)).trans (ih true)
  exact fun ls => hprogram ls false

/-- With the corners in order nothing is cut off: the copies of a `FILL` are the window's pixels (30_encoding R82). -/
theorem fillCount_eq {sx sy ex ey : Word} (hx : sx ≤ ex) (hy : sy ≤ ey) :
    (fillCount sx sy ex ey : Int) = ((ex.toNat : Int) - sx.toNat + 1) * ((ey.toNat : Int) - sy.toNat + 1) := by
  have hx : sx.toNat ≤ ex.toNat := hx
  have hy : sy.toNat ≤ ey.toNat := hy
  simp [fillCount, Nat.cast_sub hx, Nat.cast_sub hy]

/-- Settles O46: the stream is the copies the expansion writes out. -/
theorem fillIsTheBufferedStreamOfItsColour : Obligations.FillIsTheBufferedStreamOfItsColour := by
  intro sx sy ex ey color hwf
  simp only [AsmLine.wellFormed, Bool.and_eq_true, decide_eq_true_eq] at hwf
  obtain ⟨hx, hy⟩ := hwf
  refine ⟨List.replicate (fillCount sx sy ex ey) color, rfl, fun w hw => List.eq_of_mem_replicate hw, ?_⟩
  rw [List.length_replicate]
  exact fillCount_eq hx hy

end Sys2Proof.Machine

/-! The pixel FIFO: what it holds, and one step of its loop under the invariant. -/

namespace Sys2Proof.Machine

open Sys2Proof.Spec

/-! ### What the FIFO holds -/

theorem extractLsb'_eq_hiByte (w : Word) : w.extractLsb' 8 8 = hiByte w := (List.cons.inj (wordBytes_eq_bigEndian w)).1

theorem extractLsb'_eq_loByte (w : Word) : w.extractLsb' 0 8 = loByte w :=
  (List.cons.inj (List.cons.inj (wordBytes_eq_bigEndian w)).2).1

/-- The append of a word where there is room, in whatever form the buffer is: the two bytes set, every other as before. -/
theorem Memory.exists_putWord (m : Memory) {a : Nat} (w : Word) (ha : a + 1 < fifoBytes) :
    ∃ m', m.putWord a w = some m' ∧ m'.get a = some (hiByte w) ∧ m'.get (a + 1) = some (loByte w) ∧
      ∀ b, b ≠ a → b ≠ a + 1 → m'.get b = m.get b := by
  refine ⟨_, putWord_isSome ha, ?_, ?_, fun b h0 h1 => ?_⟩
  · rw [get_put_other _ _ (by omega), get_put_same, extractLsb'_eq_hiByte]
  · rw [get_put_same, extractLsb'_eq_loByte]
  · rw [get_put_other _ _ h1, get_put_other _ _ h0]

/-- The front of the buffer is these bytes. -/
def Memory.Holds (m : Memory) (bs : List Byte) : Prop := ∀ a, a < bs.length → bs[a]? = m.get a

theorem Memory.holds_nil (m : Memory) : m.Holds [] := fun _ h => absurd h (Nat.not_lt_zero _)

/-- What the front holds is what a flush reads (00_scope R9). -/
theorem Memory.Holds.read {m : Memory} {bs : List Byte} (h : m.Holds bs) : m.read 0 bs.length = some bs := by
  have hw : m.Written bs.length := fun a ha => ⟨bs[a], by rw [← h a ha, List.getElem?_eq_getElem ha]⟩
  obtain ⟨bs', hr, hlen, hbs⟩ := hw.read
  have : bs' = bs := by
    refine List.ext_getElem? fun a => ?_
    by_cases ha : a < bs.length
    · rw [hbs a ha, h a ha]
    · rw [List.getElem?_eq_none (by omega), List.getElem?_eq_none (by omega)]
  rw [hr, this]

/-- A word appended behind what the front holds. -/
theorem Memory.Holds.append {m m' : Memory} {bs : List Byte} {w : Word} (h : m.Holds bs)
    (h0 : m'.get bs.length = some (hiByte w)) (h1 : m'.get (bs.length + 1) = some (loByte w))
    (hother : ∀ b, b ≠ bs.length → b ≠ bs.length + 1 → m'.get b = m.get b) : m'.Holds (bs ++ bigEndian w) := by
  intro a ha
  have hlen : (bs ++ bigEndian w).length = bs.length + 2 := by simp [bigEndian]
  obtain hlt | rfl | rfl : a < bs.length ∨ a = bs.length ∨ a = bs.length + 1 := by omega
  · rw [List.getElem?_append_left hlt, h a hlt, hother a (by omega) (by omega)]
  · rw [List.getElem?_append_right le_rfl, Nat.sub_self, h0]
    rfl
  · rw [List.getElem?_append_right (by omega), Nat.add_sub_cancel_left, h1]
    rfl

/-! ### One step of the FIFO (40_framer R103) -/

theorem fifoToken_nil {s : State} (hpix : s.pix = []) : fifoToken s = .next s := by simp only [fifoToken, hpix]

theorem fifoToken_word {s : State} {w : Word} {rest : List Token} {m : Memory} (hpix : s.pix = .word w :: rest)
    (hm : s.buf.putWord s.idx w = some m) :
    fifoToken s = .next { s with pix := rest, pc := s.pc + 1, buf := m, idx := s.idx + 2,
                                 pos := if s.idx + 2 = 32 then .flush false else .token } := by
  simp only [fifoToken, hpix, hm]
  rfl

theorem fifoToken_last {s : State} {rest : List Token} (hpix : s.pix = .last :: rest) :
    fifoToken s = .next (
      if s.idx = 0 then { s with pix := rest, pc := s.pc + 1, pos := .script, fsm := .idle }
      else { s with pix := rest, pc := s.pc + 1, pos := .flush true }) := by
  simp only [fifoToken, hpix]
  split <;> rfl

/-- A flush answered OK (40_framer R103). -/
theorem flushStep_completed {last : Bool} {s : State} {bs : List Byte} (hr : s.buf.read 0 s.idx = some bs)
    (hw : (Action.xfer bs).WidthOk) (ha : s.nextAnswer = .ok) :
    flushStep last s = .next (
      if last then { completed (wr bs) s with pos := .script, fsm := .idle }
      else { completed (wr bs) s with pos := .token, idx := 0 }) := by
  obtain ⟨t, hp, ht⟩ := perform_completed hw ha
  have ht : t.countAction = completed (wr bs) s := ht
  simp only [flushStep, hr, hp, ht]
  cases last <;> rfl

/-- The word loop's write answered OK (45_drawing R171). -/
theorem writeStep_completed (w : Word) {s : State} (ha : s.nextAnswer = .ok) :
    writeStep w s = { completed (wr (bigEndian w)) s with pos := .token } := by
  obtain ⟨t, hp, ht⟩ := perform_completed (wordBytes_widthOk w) ha
  simp only [writeStep, hp, ht, ← wordBytes_eq_bigEndian]
  rfl

/-- Under the invariant a flush is due of written bytes, at least one (40_framer R103). -/
theorem State.Inv.flush_written {s : State} {op : Op} {last : Bool} (hinv : s.Inv) (hf : s.fsm = .run op)
    (hpos : s.pos = .flush last) : 0 < s.idx ∧ s.buf.Written s.idx := by
  have hplace : s.PlaceOk op := hinv.place _ hf
  unfold State.PlaceOk at hplace
  rw [hpos] at hplace
  obtain ⟨-, hidx, hwritten, -⟩ := hplace
  exact ⟨hidx, hwritten⟩

section Buffered

variable {i : Instr} (hi : i = .wpixb ∨ i = .spixb) {s : State} (hf : s.fsm = .run i.op)

include hi

theorem opTail_buffered : opTail i.op = .fifo := by rcases hi with rfl | rfl <;> rfl

include hf

theorem exec_buffered : exec i s = runStep (instrScript i s) .fifo s := by
  have hoff : i ≠ .offset := by rcases hi with rfl | rfl <;> decide
  rw [exec_running hf hoff, opTail_buffered hi]

/-- Under the invariant a word has room at `IDX` (20_memory R58). -/
theorem State.Inv.idx_room (hinv : s.Inv) (hpos : s.pos = .token) : s.idx + 1 < fifoBytes := by
  have hplace : s.PlaceOk i.op := hinv.place _ hf
  unfold State.PlaceOk at hplace
  rw [hpos, opTail_buffered hi] at hplace
  obtain hw | ⟨-, hlt, -⟩ := hplace
  · cases hw
  · have := hinv.idxEven
    unfold fifoBytes at *
    omega

end Buffered

/-- Settles O29: the next token by cases, and under the invariant a word has room. -/
theorem bufferedLoopAppendsEachWord : Obligations.BufferedLoopAppendsEachWord := by
  intro s i hi hinv hf hpos
  rw [exec_buffered hi hf, runStep_fifo hpos]
  refine ⟨fifoToken_nil, fun w rest hpix => ?_, fun rest hpix => fifoToken_last hpix⟩
  obtain ⟨m, hm, hbytes⟩ := s.buf.exists_putWord w (hinv.idx_room hi hf hpos)
  exact ⟨m, fifoToken_word hpix hm, hbytes⟩

/-- Settles O30: the front of the FIFO, which the invariant says is written, is the one write. -/
theorem flushSendsTheBufferedBytes : Obligations.FlushSendsTheBufferedBytes := by
  intro s i last hi hinv hf hpos ha
  obtain ⟨hidx, hwritten⟩ := hinv.flush_written hf hpos
  obtain ⟨bs, hr, hlen, hbs⟩ := hwritten.read
  refine ⟨bs, hlen, hbs, ?_⟩
  rw [exec_buffered hi hf, runStep_flush hpos]
  exact flushStep_completed hr ⟨hlen ▸ hidx, hlen ▸ hinv.idxTop⟩ ha

end Sys2Proof.Machine

/-! Whole operations with every answer OK: the steps from acceptance through the script, and the two token loops run to
their end. -/

namespace Sys2Proof.Machine

open Sys2Proof.Spec

/-! ### A run of steps and the events it emits -/

theorem run_add {m n : Nat} {s t : State} (h : Host.Core.run core m s = .next t) :
    Host.Core.run core (m + n) s = Host.Core.run core n t := by
  induction m generalizing s with
  | zero =>
    cases h
    rw [Nat.zero_add]
  | succ m ih =>
    rw [Nat.succ_add]
    simp only [Host.Core.run] at h ⊢
    cases hs : core.step s with
    | next u =>
      rw [hs] at h
      exact ih h
    | fault r | refused r =>
      rw [hs] at h
      cases h

theorem run_one {s t : State} (h : step s = .next t) : Host.Core.run core 1 s = .next t := by
  have h : core.step s = .next t := h
  simp only [Host.Core.run, h]

/-- The state after these events, one after another. -/
def completedAll : List Event → State → State
  | [], s => s
  | e :: es, s => completedAll es (completed e s)

theorem completedAll_append (es fs : List Event) (s : State) :
    completedAll (es ++ fs) s = completedAll fs (completedAll es s) := by
  induction es generalizing s with
  | nil => rfl
  | cons e es ih => exact ih _

theorem completed_kept (e : Event) (s : State) : Kept s (completed e s) := by
  rcases e with ⟨_ | _, _, _⟩ | _ | _ <;> constructor <;> rfl

theorem completedAll_kept (es : List Event) (s : State) : Kept s (completedAll es s) := by
  induction es generalizing s with
  | nil => exact .rfl s
  | cons e es ih => exact (completed_kept e s).trans (ih _)

/-- An event leaves `FSM`, the token port and `ERR` alone, and is the last of the trace. -/
theorem completed_fields (e : Event) (s : State) :
    (completed e s).fsm = s.fsm ∧ (completed e s).pix = s.pix ∧ (completed e s).err = s.err ∧
      (completed e s).tr = s.tr ++ [e] := by
  rcases e with ⟨_ | _, _, _⟩ | _ | _ <;> exact ⟨rfl, rfl, rfl, rfl⟩

theorem completed_pc (e : Event) (s : State) : (completed e s).pc = s.pc + 1 := by
  rcases e with ⟨_ | _, _, _⟩ | _ | _ <;> rfl

theorem completedAll_fields (es : List Event) (s : State) :
    (completedAll es s).fsm = s.fsm ∧ (completedAll es s).pix = s.pix ∧ (completedAll es s).err = s.err ∧
      (completedAll es s).tr = s.tr ++ es := by
  induction es generalizing s with
  | nil => exact ⟨rfl, rfl, rfl, (List.append_nil _).symm⟩
  | cons e es ih =>
    obtain ⟨hfsm, hpix, herr, htr⟩ := ih (completed e s)
    obtain ⟨hfsm', hpix', herr', htr'⟩ := completed_fields e s
    refine ⟨hfsm.trans hfsm', hpix.trans hpix', herr.trans herr', htr.trans ?_⟩
    rw [htr', List.append_assoc, List.singleton_append]

/-- One answer is listed for each event that takes one (20_memory R55): the next event takes its own. -/
theorem completed_env {e : Event} {es : List Event} {s : State} {rest : List Answer}
    (h : s.env = List.replicate ((e :: es).countP fallible) .ok ++ rest) :
    Answered e s ∧ (completed e s).env = List.replicate (es.countP fallible) .ok ++ rest := by
  have hfallible (hfall : fallible e = true) :
      s.nextAnswer = .ok ∧ s.env.tail = List.replicate (es.countP fallible) .ok ++ rest := by
    rw [List.countP_cons_of_pos hfall] at h
    exact ⟨by rw [State.nextAnswer, h]; rfl, by rw [h]; rfl⟩
  rcases e with ⟨_ | _, _, _⟩ | _ | _
  case dly =>
    rw [List.countP_cons_of_neg Bool.false_ne_true] at h
    exact ⟨trivial, h⟩
  all_goals exact hfallible rfl

theorem completedAll_env {es : List Event} {s : State} {rest : List Answer}
    (h : s.env = List.replicate (es.countP fallible) .ok ++ rest) : (completedAll es s).env = rest := by
  induction es generalizing s with
  | nil => exact h
  | cons e es ih => exact ih (completed_env h).2

/-- The bytes of writes reach the bus in order, at the D/C level they find (20_memory R57). -/
theorem completedAll_writes_bus (fs : List (List Byte)) (s : State) :
    (completedAll (fs.map wr) s).bus = s.bus ++ fs.flatten.map (fun b => ⟨s.dcQ, b⟩) := by
  induction fs generalizing s with
  | nil => exact (List.append_nil _).symm
  | cons f fs ih =>
    rw [List.flatten_cons, List.map_append, ← List.append_assoc]
    exact ih (completed (wr f) s)

/-- The state with `t`'s sequencer, token port and pixel FIFO, which change with no event. -/
def State.withPlace (s t : State) : State :=
  { s with fsm := t.fsm, pc := t.pc, pos := t.pos, pix := t.pix, buf := t.buf, idx := t.idx }

/-- The events of the way from `s` to `t`, each answered OK: they alone account for `t`, its place apart. -/
def Emitted (es : List Event) (s t : State) : Prop := t = (completedAll es s).withPlace t

theorem completed_withPlace (e : Event) (s t u : State) :
    (completed e (s.withPlace t)).withPlace u = (completed e s).withPlace u := by
  rcases e with ⟨_ | _, _, _⟩ | _ | _ <;> rfl

/-- An event does not depend on the place. -/
theorem completedAll_withPlace (es : List Event) (s t u : State) :
    (completedAll es (s.withPlace t)).withPlace u = (completedAll es s).withPlace u := by
  induction es generalizing s t with
  | nil => rfl
  | cons e es ih =>
    have hplace : completed e (s.withPlace t) = (completed e s).withPlace (completed e (s.withPlace t)) :=
      completed_withPlace e s t _
    simp only [completedAll]
    rw [hplace, ih]

theorem Emitted.trans {es fs : List Event} {s t u : State} (h : Emitted es s t) (k : Emitted fs t u) :
    Emitted (es ++ fs) s u := by
  unfold Emitted at *
  rw [completedAll_append, ← completedAll_withPlace fs (completedAll es s) t u, ← h]
  exact k

/-- In `n` steps the machine goes from `s` to `t`, emitting these events, each answered OK. -/
structure Progress (n : Nat) (es : List Event) (s t : State) : Prop where
  run : Host.Core.run core n s = .next t
  emitted : Emitted es s t

theorem Progress.step {es : List Event} {s t : State} (h : step s = .next t) (he : Emitted es s t) : Progress 1 es s t :=
  ⟨run_one h, he⟩

theorem Progress.trans {m n : Nat} {es fs : List Event} {s t u : State} (h : Progress m es s t) (k : Progress n fs t u) :
    Progress (m + n) (es ++ fs) s u :=
  ⟨(run_add h.run).trans k.run, h.emitted.trans k.emitted⟩

theorem Progress.steps {m n : Nat} {es : List Event} {s t : State} (h : Progress m es s t) (e : m = n) :
    Progress n es s t := e ▸ h

/-! ### From acceptance to the end of the script -/

theorem events_congr {s t : State} (i : Instr) (hc : t.cfg = s.cfg) (hp : t.par = s.par) (ho : t.opl = s.opl) :
    events i t = events i s := by
  cases i <;> simp only [events, hc, hp, ho]

/-- Every instruction but OFFSET has an event. -/
theorem events_ne_nil {i : Instr} (hi : i ≠ .offset) (s : State) : events i s ≠ [] := by
  cases i with
  | offset => exact absurd rfl hi
  | _ => exact List.cons_ne_nil _ _

theorem emitted_completed (e : Event) (s : State) : Emitted [e] s (completed e s) := by
  rcases e with ⟨_ | _, _, _⟩ | _ | _ <;> rfl

theorem emitted_endScript (tail : Tail) (es : List Event) (s : State) :
    Emitted es s (endScript tail (completedAll es s)) := by
  cases tail <;> rfl

/-- From any of its events on, an instruction with every answer OK completes them all and is past its script. -/
theorem progress_script {i : Instr} {s : State} {es : List Event} {rest : List Answer}
    (hfit : FromBringUp i → s.par.initParams.Fits) (hi : i.op.instr s.latchedMode = i) (hhost : s.host = [])
    (hf : s.fsm = .run i.op) (hpos : s.pos = .script) (hes : (events i s).drop s.pc = es) (hne : es ≠ [])
    (henv : s.env = List.replicate (es.countP fallible) .ok ++ rest) :
    Progress es.length es s (endScript (opTail i.op) (completedAll es s)) := by
  induction es generalizing s with
  | nil => exact absurd rfl hne
  | cons e es ih =>
    have he : (events i s)[s.pc]? = some e := by
      rw [← List.head?_drop, hes]
      rfl
    have hdrop : (events i s).drop (s.pc + 1) = es := by
      rw [← List.tail_drop, hes]
      rfl
    obtain ⟨hans, henv'⟩ := completed_env henv
    have hstep : step s = .next (if s.pc + 1 < (events i s).length then completed e s
        else endScript (opTail i.op) (completed e s)) := by
      rw [step_running hhost hf, hi, exec_completed hfit hf hpos he hans]
    by_cases hes' : es = []
    · subst hes'
      rw [if_neg (by have := List.drop_eq_nil_iff.1 hdrop; omega)] at hstep
      exact .step hstep (emitted_endScript _ [e] s)
    · have hlt : s.pc + 1 < (events i s).length := by
        by_contra hge
        exact hes' (hdrop ▸ List.drop_eq_nil_of_le (by omega))
      rw [if_pos hlt] at hstep
      have hk := completed_kept e s
      have hmode : (completed e s).latchedMode = s.latchedMode := by simp [State.latchedMode, hk.opl]
      have htail := ih (s := completed e s) (hk.par ▸ hfit) (hmode ▸ hi) (hk.host.trans hhost)
        ((completed_fields e s).1.trans hf) ((completed_pos e s).trans hpos)
        (by rw [events_congr i hk.cfg hk.par hk.opl, completed_pc, hdrop]) hes' henv'
      exact ((Progress.step hstep (emitted_completed e s)).trans htail).steps (Nat.add_comm _ _)

/-- A legal word encodes the mode its row's instruction carries (30_encoding R72). -/
theorem op_instr_of_legal {w : Word} {i : Instr} (h : (w, i) ∈ legalWords) :
    i.op.instr (Mode.ofBits (orientField w)) = i := by
  have table : ∀ p ∈ legalWords, p.2.op.instr (Mode.ofBits (orientField p.1)) = p.2 := by decide
  exact table _ h

section Offered

variable {s : State} {w : Word} {i : Instr} {answers rest : List Answer}

/-- The first step of an offered word is its acceptance (10_state R38). -/
theorem run_accept (ho : Offered s w answers) (hw : (w, i) ∈ legalWords) :
    Host.Core.run core 1 s = .next (accepted w i.op s) :=
  run_one (legalWordIsAccepted s s w i (hostTurn_nil ho.host) ho.idle ho.slot ho.cmd hw)

/-- From acceptance an instruction with every answer OK completes its events and is past its script. -/
theorem accepted_progress_script
    (ho : Offered s w (List.replicate ((events i (accepted w i.op s)).countP fallible) .ok ++ rest))
    (hw : (w, i) ∈ legalWords) (hfit : FromBringUp i → s.par.initParams.Fits) (hoff : i ≠ .offset) :
    Progress (events i (accepted w i.op s)).length (events i (accepted w i.op s)) (accepted w i.op s)
      (endScript (opTail i.op) (completedAll (events i (accepted w i.op s)) (accepted w i.op s))) :=
  progress_script (s := accepted w i.op s) hfit (op_instr_of_legal hw) ho.host rfl rfl rfl
    (events_ne_nil hoff _) ho.env

/-- An accepted operation that is idle again after these events, each answered OK, has ended so (10_state R33). -/
theorem Emitted.ended {op : Op} {es : List Event} {t : State} {more : List Token} (h : Emitted es (accepted w op s) t)
    (hfsm : t.fsm = .idle) (hpix : t.pix = more) (henv : s.env = List.replicate (es.countP fallible) .ok ++ rest) :
    Ended s t es rest more := by
  have hk := completedAll_kept es (accepted w op s)
  obtain ⟨-, -, herr, htr⟩ := completedAll_fields es (accepted w op s)
  exact
    { trace := (congrArg State.tr h).trans htr
      fsm := hfsm
      err := (congrArg State.err h).trans herr
      ill := (congrArg State.ill h).trans hk.ill
      env := (congrArg State.env h).trans (completedAll_env (s := accepted w op s) henv)
      pix := hpix
      dx := (congrArg State.dx h).trans hk.dx
      dy := (congrArg State.dy h).trans hk.dy
      arg := (congrArg State.arg h).trans hk.arg
      cfg := (congrArg State.cfg h).trans hk.cfg
      par := (congrArg State.par h).trans hk.par
      port := (congrArg State.cmdPort h).trans hk.cmdPort }

end Offered

/-! ### The token loops, step by step -/

/-- A stream operation stands in its token loop, the host leaving it to run, with these tokens offered and these answers
to come. -/
structure State.InLoop (s : State) (tail : Tail) (pos : Pos) (pix : List Token) (env : List Answer) : Prop where
  host : s.host = []
  running : ∃ op, s.fsm = .run op ∧ opTail op = tail
  pos : s.pos = pos
  pix : s.pix = pix
  env : s.env = env

/-- `IDX` counts these bytes, which are the front of `BUF` (10_state R30). -/
structure State.Front (s : State) (bs : List Byte) : Prop where
  idx : s.idx = bs.length
  holds : s.buf.Holds bs

/-- Past its script a stream operation is at the head of its loop, the pixel FIFO empty (40_framer R103). -/
theorem endScript_inLoop {s : State} {op : Op} (ht : opTail op ≠ .ends) (hhost : s.host = []) (hf : s.fsm = .run op) :
    (endScript (opTail op) s).InLoop (opTail op) .token s.pix s.env ∧
      (opTail op = .fifo → (endScript (opTail op) s).Front []) := by
  cases h : opTail op with
  | ends => exact absurd h ht
  | words => exact ⟨⟨hhost, ⟨op, hf, h⟩, rfl, rfl, rfl⟩, fun h => by cases h⟩
  | fifo => exact ⟨⟨hhost, ⟨op, hf, h⟩, rfl, rfl, rfl⟩, fun _ => ⟨rfl, Memory.holds_nil _⟩⟩

section InLoop

variable {s : State} {tail : Tail} {pos : Pos} {pix : List Token} {env : List Answer} {w : Word}

theorem State.InLoop.step (h : s.InLoop tail pos pix env) (ht : tail ≠ .ends) :
    ∃ script, step s = runStep script tail s := by
  obtain ⟨op, hf, htail⟩ := h.running
  have hop : op ≠ .offset := by
    rintro rfl
    exact ht htail.symm
  exact ⟨_, by rw [step_nil h.host, blockStep_run hf hop, htail]⟩

theorem State.InLoop.nextAnswer (h : s.InLoop tail pos pix (.ok :: env)) : s.nextAnswer = .ok := by
  simp [State.nextAnswer, h.env]

/-- The unbuffered loop takes a word (45_drawing R171). -/
theorem State.InLoop.words_word (h : s.InLoop .words .token (.word w :: pix) env) :
    ∃ t, Progress 1 [] s t ∧ t.InLoop .words (.write w) pix env := by
  obtain ⟨script, hs⟩ := h.step (by decide)
  refine ⟨{ s.countAction with pix := pix, pos := .write w }, .step ?_ rfl, h.host, h.running, rfl, rfl, h.env⟩
  rw [hs, runStep_words h.pos]
  simp only [wordsToken, h.pix]

/-- It sends the word, and is at the next token. -/
theorem State.InLoop.words_write (h : s.InLoop .words (.write w) pix (.ok :: env)) :
    ∃ t, Progress 1 [wr (bigEndian w)] s t ∧ t.InLoop .words .token pix env := by
  obtain ⟨script, hs⟩ := h.step (by decide)
  refine ⟨{ completed (wr (bigEndian w)) s with pos := .token }, .step ?_ rfl, h.host, h.running, rfl, h.pix,
    congrArg List.tail h.env⟩
  rw [hs, runStep_write h.pos, writeStep_completed w h.nextAnswer]

/-- It ends at `END`. -/
theorem State.InLoop.words_last (h : s.InLoop .words .token (.last :: pix) env) :
    ∃ t, Progress 1 [] s t ∧ t.fsm = .idle ∧ t.pix = pix := by
  obtain ⟨script, hs⟩ := h.step (by decide)
  refine ⟨finish { s.countAction with pix := pix }, .step ?_ rfl, rfl, rfl⟩
  rw [hs, runStep_words h.pos]
  simp only [wordsToken, h.pix]

/-- The buffered loop appends a word, and a full FIFO is flushed next (40_framer R103). -/
theorem State.InLoop.fifo_word {bs : List Byte} (h : s.InLoop .fifo .token (.word w :: pix) env) (hb : s.Front bs)
    (hroom : bs.length + 1 < 32) :
    ∃ t, Progress 1 [] s t ∧ t.Front (bs ++ bigEndian w) ∧
      t.InLoop .fifo (if bs.length + 2 = 32 then .flush false else .token) pix env := by
  obtain ⟨script, hs⟩ := h.step (by decide)
  obtain ⟨m, hm, h0, h1, hother⟩ := s.buf.exists_putWord (a := bs.length) w hroom
  refine ⟨{ s with pix := pix, pc := s.pc + 1, buf := m, idx := s.idx + 2,
                   pos := if s.idx + 2 = 32 then .flush false else .token }, .step ?_ rfl,
    ⟨?_, hb.holds.append h0 h1 hother⟩, h.host, h.running, ?_, rfl, h.env⟩
  · rw [hs, runStep_fifo h.pos, fifoToken_word h.pix (hb.idx ▸ hm)]
  · simp [hb.idx, bigEndian]
  · simp only [hb.idx]

/-- A full flush sends what the FIFO holds and empties it. -/
theorem State.InLoop.flush_full {bs : List Byte} (h : s.InLoop .fifo (.flush false) pix (.ok :: env)) (hb : s.Front bs)
    (hw : (Action.xfer bs).WidthOk) :
    ∃ t, Progress 1 [wr bs] s t ∧ t.Front [] ∧ t.InLoop .fifo .token pix env := by
  obtain ⟨script, hs⟩ := h.step (by decide)
  refine ⟨{ completed (wr bs) s with pos := .token, idx := 0 }, .step ?_ rfl, ⟨rfl, Memory.holds_nil _⟩, h.host,
    h.running, rfl, h.pix, congrArg List.tail h.env⟩
  rw [hs, runStep_flush h.pos, flushStep_completed (hb.idx ▸ hb.holds.read) hw h.nextAnswer]
  rfl

/-- `END` with nothing buffered ends the operation (log 13). -/
theorem State.InLoop.fifo_last_empty (h : s.InLoop .fifo .token (.last :: pix) env) (hb : s.Front []) :
    ∃ t, Progress 1 [] s t ∧ t.fsm = .idle ∧ t.pix = pix := by
  obtain ⟨script, hs⟩ := h.step (by decide)
  refine ⟨{ s with pix := pix, pc := s.pc + 1, pos := .script, fsm := .idle }, .step ?_ rfl, rfl, rfl⟩
  rw [hs, runStep_fifo h.pos, fifoToken_last h.pix, if_pos (show s.idx = 0 from hb.idx)]

/-- `END` with bytes buffered makes the final flush next. -/
theorem State.InLoop.fifo_last {bs : List Byte} (h : s.InLoop .fifo .token (.last :: pix) env) (hb : s.Front bs)
    (hne : bs ≠ []) :
    ∃ t, Progress 1 [] s t ∧ t.Front bs ∧ t.InLoop .fifo (.flush true) pix env := by
  obtain ⟨script, hs⟩ := h.step (by decide)
  have hidx : s.idx ≠ 0 := hb.idx ▸ List.length_eq_zero_iff.not.2 hne
  refine ⟨{ s with pix := pix, pc := s.pc + 1, pos := .flush true }, .step ?_ rfl, ⟨hb.idx, hb.holds⟩, h.host, h.running,
    rfl, rfl, h.env⟩
  rw [hs, runStep_fifo h.pos, fifoToken_last h.pix, if_neg hidx]

/-- The final flush sends what the FIFO holds and ends the operation (log 14). -/
theorem State.InLoop.flush_last {bs : List Byte} (h : s.InLoop .fifo (.flush true) pix (.ok :: env)) (hb : s.Front bs)
    (hw : (Action.xfer bs).WidthOk) :
    ∃ t, Progress 1 [wr bs] s t ∧ t.fsm = .idle ∧ t.pix = pix := by
  obtain ⟨script, hs⟩ := h.step (by decide)
  refine ⟨{ completed (wr bs) s with pos := .script, fsm := .idle }, .step ?_ rfl, rfl, h.pix⟩
  rw [hs, runStep_flush h.pos, flushStep_completed (hb.idx ▸ hb.holds.read) hw h.nextAnswer]
  rfl

end InLoop

/-! ### The token loops to their end -/

/-- The unbuffered loop sends one write a word, and takes the tokens up to `END` (45_drawing R171). -/
theorem State.InLoop.words_run {s : State} {ws : List Word} {more : List Token} {rest : List Answer}
    (h : s.InLoop .words .token (ws.map .word ++ .last :: more) (List.replicate ws.length .ok ++ rest)) :
    ∃ t, Progress (2 * ws.length + 1) (ws.map fun w => wr (bigEndian w)) s t ∧ t.fsm = .idle ∧ t.pix = more := by
  induction ws generalizing s with
  | nil => exact h.words_last
  | cons w ws ih =>
    obtain ⟨s1, p1, h1⟩ := h.words_word
    obtain ⟨s2, p2, h2⟩ := h1.words_write
    obtain ⟨t, p3, hend⟩ := ih h2
    refine ⟨t, (p1.trans (p2.trans p3)).steps ?_, hend⟩
    rw [List.length_cons]
    omega

/-- The flushes of the buffered loop from a FIFO holding `held`: a full one at the sixteenth word, and at `END` one of
what is left, if anything is (40_framer R103). -/
def flushes (held : List Word) : List Word → List (List Byte)
  | [] => if held = [] then [] else [held.flatMap bigEndian]
  | w :: ws =>
    if held.length + 1 = 16 then (held ++ [w]).flatMap bigEndian :: flushes [] ws else flushes (held ++ [w]) ws

theorem length_flatMap_bigEndian (ws : List Word) : (ws.flatMap bigEndian).length = 2 * ws.length := by
  induction ws with
  | nil => rfl
  | cons w ws ih =>
    rw [List.flatMap_cons, List.length_append, ih, List.length_cons]
    simp only [bigEndian, List.length_cons, List.length_nil]
    omega

theorem flatMap_bigEndian_widthOk {ws : List Word} (hne : ws ≠ []) (hle : ws.length ≤ 16) :
    (Action.xfer (ws.flatMap bigEndian)).WidthOk := by
  have hpos := List.length_pos_iff.2 hne
  show 1 ≤ _ ∧ _ ≤ 32
  rw [length_flatMap_bigEndian]
  omega

/-- The buffered loop sends its flushes, and takes the tokens up to `END` (40_framer R103). -/
theorem State.InLoop.fifo_run {s : State} {held ws : List Word} {more : List Token} {rest : List Answer}
    (h : s.InLoop .fifo .token (ws.map .word ++ .last :: more) (List.replicate (flushes held ws).length .ok ++ rest))
    (hb : s.Front (held.flatMap bigEndian)) (hroom : held.length < 16) :
    ∃ t, Progress (ws.length + (flushes held ws).length + 1) ((flushes held ws).map wr) s t ∧ t.fsm = .idle ∧
      t.pix = more := by
  induction ws generalizing s held with
  | nil =>
    by_cases hheld : held = []
    · subst hheld
      exact h.fifo_last_empty hb
    · simp only [flushes, if_neg hheld] at h ⊢
      have hw := flatMap_bigEndian_widthOk hheld (by omega)
      obtain ⟨s1, p1, hb1, h1⟩ := h.fifo_last hb hw.ne_nil
      obtain ⟨t, p2, hend⟩ := h1.flush_last hb1 hw
      exact ⟨t, p1.trans p2, hend⟩
  | cons w ws ih =>
    have hlen := length_flatMap_bigEndian held
    obtain ⟨s1, p1, hb1, h1⟩ := h.fifo_word hb (by omega)
    have happ : held.flatMap bigEndian ++ bigEndian w = (held ++ [w]).flatMap bigEndian := by simp
    rw [happ] at hb1
    by_cases hfull : held.length + 1 = 16
    · rw [if_pos (by omega)] at h1
      simp only [flushes, if_pos hfull] at h1 ⊢
      obtain ⟨s2, p2, hb2, h2⟩ := h1.flush_full hb1 (flatMap_bigEndian_widthOk (by simp) (by simp; omega))
      obtain ⟨t, p3, hend⟩ := ih (held := []) h2 hb2 (by simp)
      refine ⟨t, (p1.trans (p2.trans p3)).steps ?_, hend⟩
      simp only [List.length_cons]
      omega
    · rw [if_neg (by omega)] at h1
      simp only [flushes, if_neg hfull] at h1 ⊢
      obtain ⟨t, p2, hend⟩ := ih h1 hb1 (by simp; omega)
      refine ⟨t, (p1.trans p2).steps ?_, hend⟩
      simp only [List.length_cons]
      omega

/-! ### The transaction law of the flushes (40_framer R104) -/

theorem flushes_length {held : List Word} (ws : List Word) (h : held.length < 16) :
    (flushes held ws).length = (held.length + ws.length + 15) / 16 := by
  induction ws generalizing held with
  | nil =>
    by_cases hheld : held = []
    · simp [flushes, hheld]
    · have := List.length_pos_iff.2 hheld
      simp only [flushes, if_neg hheld, List.length_singleton, List.length_nil]
      omega
  | cons w ws ih =>
    by_cases hfull : held.length + 1 = 16
    · simp only [flushes, if_pos hfull, List.length_cons, ih (held := []) (by simp), List.length_nil]
      omega
    · simp only [flushes, if_neg hfull, ih (held := held ++ [w]) (by simp; omega), List.length_append, List.length_cons,
        List.length_nil]
      omega

theorem flushes_length_empty (ws : List Word) : (flushes [] ws).length = (ws.length + 15) / 16 := by
  rw [flushes_length ws (by decide), List.length_nil, Nat.zero_add]

theorem flushes_flatten (held ws : List Word) : (flushes held ws).flatten = (held ++ ws).flatMap bigEndian := by
  induction ws generalizing held with
  | nil =>
    by_cases hheld : held = [] <;> simp [flushes, hheld]
  | cons w ws ih =>
    by_cases hfull : held.length + 1 = 16 <;> simp [flushes, hfull, ih]

theorem flushes_widthOk {held : List Word} (ws : List Word) (h : held.length < 16) :
    ∀ f ∈ flushes held ws, (Action.xfer f).WidthOk := by
  induction ws generalizing held with
  | nil =>
    by_cases hheld : held = []
    · simp [flushes, hheld]
    · simp only [flushes, if_neg hheld, List.forall_mem_singleton]
      exact flatMap_bigEndian_widthOk hheld (by omega)
  | cons w ws ih =>
    by_cases hfull : held.length + 1 = 16
    · simp only [flushes, if_pos hfull, List.forall_mem_cons]
      exact ⟨flatMap_bigEndian_widthOk (by simp) (by simp; omega), ih (by simp)⟩
    · simp only [flushes, if_neg hfull]
      exact ih (by simp; omega)

/-- All but the last are full. -/
theorem flushes_dropLast (held ws : List Word) : ∀ f ∈ (flushes held ws).dropLast, f.length = 32 := by
  induction ws generalizing held with
  | nil => by_cases hheld : held = [] <;> simp [flushes, hheld]
  | cons w ws ih =>
    by_cases hfull : held.length + 1 = 16
    · simp only [flushes, if_pos hfull]
      intro f hf
      by_cases hnil : flushes [] ws = []
      · simp [hnil] at hf
      · rw [List.dropLast_cons_of_ne_nil hnil] at hf
        obtain rfl | hf := List.mem_cons.1 hf
        · rw [length_flatMap_bigEndian, List.length_append, List.length_singleton, hfull]
        · exact ih [] f hf
    · simp only [flushes, if_neg hfull]
      exact ih _

theorem countP_fallible_writes (fs : List (List Byte)) : (fs.map wr).countP fallible = fs.length := by
  rw [List.countP_map]
  exact List.countP_eq_length.2 fun _ _ => rfl

/-! ### The stream operations, from offer to end -/

section Streams

variable {s : State} {w : Word} {i : Instr} {k : Nat} {rest : List Answer} {ws : List Word} {more : List Token}

/-- An offered stream operation is accepted, completes its head and is at its token loop, `IDX` 0 if it is buffered. -/
theorem stream_head (hw : (w, i) ∈ legalWords) (hi : streams i)
    (ho : Offered s w (List.replicate ((events i (accepted w i.op s)).countP fallible + k) .ok ++ rest)) :
    ∃ t, Progress (events i (accepted w i.op s)).length (events i (accepted w i.op s)) (accepted w i.op s) t ∧
      t.InLoop (opTail i.op) .token s.pix (List.replicate k .ok ++ rest) ∧ (opTail i.op = .fifo → t.Front []) := by
  rw [List.replicate_add, List.append_assoc] at ho
  have hfit : ¬ FromBringUp i := by rcases hi with rfl | rfl | rfl | rfl <;> decide
  have hoff : i ≠ .offset := by rcases hi with rfl | rfl | rfl | rfl <;> decide
  have hp := accepted_progress_script ho hw (fun h => absurd h hfit) hoff
  refine ⟨_, hp, ?_⟩
  have hk := completedAll_kept (events i (accepted w i.op s)) (accepted w i.op s)
  obtain ⟨hfsm, hpix, -⟩ := completedAll_fields (events i (accepted w i.op s)) (accepted w i.op s)
  have henv := completedAll_env (s := accepted w i.op s) ho.env
  obtain ⟨hloop, hfront⟩ := endScript_inLoop ((opTail_ne_ends_iff i).2 hi) (hk.host.trans ho.host) hfsm
  rw [hpix, henv] at hloop
  exact ⟨hloop, hfront⟩

/-- An unbuffered stream operation, from offer to end (45_drawing R171, R173). -/
theorem words_stream_run (hw : (w, i) ∈ legalWords) (hi : i = .wpix ∨ i = .spix)
    (hpix : s.pix = ws.map .word ++ .last :: more)
    (ho : Offered s w (List.replicate ((events i (accepted w i.op s)).countP fallible + ws.length) .ok ++ rest)) :
    ∃ t, Host.Core.run core (1 + ((events i (accepted w i.op s)).length + (2 * ws.length + 1))) s = .next t ∧
      Emitted (events i (accepted w i.op s) ++ ws.map fun w => wr (bigEndian w)) (accepted w i.op s) t ∧
      t.fsm = .idle ∧ t.pix = more := by
  have hs : streams i := hi.elim .inl fun h => .inr (.inr (.inl h))
  have ht : opTail i.op = .words := by rcases hi with rfl | rfl <;> rfl
  obtain ⟨u, p1, hu, -⟩ := stream_head hw hs ho
  rw [ht, hpix] at hu
  obtain ⟨t, p2, hend⟩ := hu.words_run
  have p := p1.trans p2
  exact ⟨t, (run_add (run_accept ho hw)).trans p.run, p.emitted, hend⟩

/-- A buffered stream operation, from offer to end (40_framer R103; 45_drawing R172, R174). -/
theorem fifo_stream_run (hw : (w, i) ∈ legalWords) (hi : i = .wpixb ∨ i = .spixb)
    (hpix : s.pix = ws.map .word ++ .last :: more)
    (ho : Offered s w
      (List.replicate ((events i (accepted w i.op s)).countP fallible + (flushes [] ws).length) .ok ++ rest)) :
    ∃ t, Host.Core.run core (1 + ((events i (accepted w i.op s)).length + (ws.length + (flushes [] ws).length + 1))) s
        = .next t ∧
      Emitted (events i (accepted w i.op s) ++ (flushes [] ws).map wr) (accepted w i.op s) t ∧
      t.fsm = .idle ∧ t.pix = more := by
  have hs : streams i := .inr (hi.elim .inl fun h => .inr (.inr h))
  obtain ⟨u, p1, hu, hb⟩ := stream_head hw hs ho
  rw [opTail_buffered hi, hpix] at hu
  obtain ⟨t, p2, hend⟩ := hu.fifo_run (held := []) (hb (opTail_buffered hi)) (by decide)
  have p := p1.trans p2
  exact ⟨t, (run_add (run_accept ho hw)).trans p.run, p.emitted, hend⟩

/-- A buffered stream operation whose head is `n` fallible events obeys the transaction law (40_framer R104). -/
theorem fifo_stream_law {es : List Event} {n : Nat} (hw : (w, i) ∈ legalWords) (hi : i = .wpixb ∨ i = .spixb)
    (hpix : s.pix = ws.map .word ++ .last :: more) (hes : events i (accepted w i.op s) = es) (hlen : es.length = n)
    (hfall : es.countP fallible = n) (ho : Offered s w (List.replicate (n + (ws.length + 15) / 16) .ok ++ rest)) :
    ∃ t, ∃ flushes : List (List Byte),
      Host.Core.run core (2 + n + ws.length + (ws.length + 15) / 16) s = .next t ∧
      Ended s t (es ++ flushes.map wr) rest more ∧
      flushes.length = (ws.length + 15) / 16 ∧ flushes.flatten = ws.flatMap bigEndian ∧
      (∀ f ∈ flushes, 1 ≤ f.length ∧ f.length ≤ 32) ∧ (∀ f ∈ flushes.dropLast, f.length = 32) := by
  rw [← flushes_length_empty] at ho ⊢
  obtain ⟨t, hrun, hem, hidle, hmore⟩ := fifo_stream_run (i := i) hw hi hpix (by rwa [hes, hfall])
  rw [hes] at hrun hem
  have hans : s.env = List.replicate ((es ++ (flushes [] ws).map wr).countP fallible) .ok ++ rest := by
    rw [List.countP_append, hfall, countP_fallible_writes]
    exact ho.env
  refine ⟨t, flushes [] ws, ?_, hem.ended hidle hmore hans, rfl, flushes_flatten [] ws, flushes_widthOk ws (by decide),
    flushes_dropLast [] ws⟩
  rw [← hrun, hlen]
  congr 1
  omega

end Streams

/-- Settles O41: the loop's flushes from an empty FIFO are the transactions, after the head of the operation. -/
theorem bufferedStreamObeysTheTransactionLaw : Obligations.BufferedStreamObeysTheTransactionLaw := by
  intro s ws more rest hpix
  refine ⟨fun ho => ?_, fun ho => ?_⟩
  · exact fifo_stream_law (i := .wpixb) (by simp [legalWords]) (.inl rfl) hpix rfl rfl rfl ho
  · exact fifo_stream_law (i := .spixb) (by simp [legalWords]) (.inr rfl) hpix rfl rfl rfl ho

/-- A RAMWR frame puts its opcode on the bus with D/C low, and what follows goes with D/C high (45_drawing R177). -/
theorem Emitted.ramwr_writes {w : Word} {op : Op} {s t : State} {fs : List (List Byte)}
    (h : Emitted (ramwrEvents s.par.opc ++ fs.map wr) (accepted w op s) t) :
    t.tr.length = s.tr.length + 3 + fs.length ∧
      t.bus = s.bus ++ [⟨.known .lo, s.par.opc.ramwr⟩] ++ fs.flatten.map (fun b => ⟨.known .hi, b⟩) := by
  obtain ⟨-, -, -, hall⟩ := completedAll_fields (ramwrEvents s.par.opc ++ fs.map wr) (accepted w op s)
  have htr : t.tr = s.tr ++ (ramwrEvents s.par.opc ++ fs.map wr) := (congrArg State.tr h).trans hall
  have hbus : t.bus = (completedAll (ramwrEvents s.par.opc ++ fs.map wr) (accepted w op s)).bus :=
    (congrArg State.bus h).trans rfl
  constructor
  · rw [htr, List.length_append, List.length_append, List.length_map, ← Nat.add_assoc]
    rfl
  · rw [hbus, completedAll_append, completedAll_writes_bus]
    rfl

/-- Settles O42: after the RAMWR frame the words one by one and the flushes are the same bytes. -/
theorem bothPathsPutTheSameBytesOnTheBus : Obligations.BothPathsPutTheSameBytesOnTheBus := by
  intro s u ws more rest hpix hu ho
  have hcount := flushes_length_empty ws
  have hpixu : u.pix = ws.map .word ++ .last :: more := by
    rw [hu]
    exact hpix
  have hou : Offered u 0x0007 (List.replicate (3 + (flushes [] ws).length) .ok ++
      (List.replicate (ws.length - (flushes [] ws).length) .ok ++ rest)) := by
    rw [hu]
    refine ⟨ho.idle, ho.slot, ho.host, rfl, ho.env.trans ?_⟩
    rw [← List.append_assoc, ← List.replicate_add]
    congr 2
    omega
  obtain ⟨t, hrunt, het, hidlet, -⟩ := words_stream_run (i := .wpix) (by simp [legalWords]) (.inl rfl) hpix ho
  obtain ⟨v, hrunv, hev, hidlev, -⟩ := fifo_stream_run (i := .wpixb) (by simp [legalWords]) (.inl rfl) hpixu hou
  have hwrites : (ws.map fun w => wr (bigEndian w)) = (ws.map bigEndian).map wr := by rw [List.map_map]; rfl
  rw [hwrites] at het
  obtain ⟨htrt, hbust⟩ := het.ramwr_writes
  obtain ⟨htrv, hbusv⟩ := hev.ramwr_writes
  rw [List.length_map] at htrt
  rw [← List.flatMap_def] at hbust
  rw [flushes_flatten, List.nil_append] at hbusv
  subst hu
  refine ⟨t, v, ?_, ?_, hidlet, hidlev, hbusv.trans hbust.symm, htrt, hcount ▸ htrv, hbust⟩
  · rw [← hrunt]
    congr 1
    simp only [events, ramwrEvents, List.length_cons, List.length_nil]
    omega
  · rw [← hrunv, ← hcount]
    congr 1
    simp only [events, ramwrEvents, List.length_cons, List.length_nil]
    omega

end Sys2Proof.Machine

/-! Operations without a token loop, whole, with every answer OK. -/

namespace Sys2Proof.Machine

open Sys2Proof.Spec

/-- An offered operation that ends with its script (10_state R39) ends, every answer OK, after its acceptance and one
step for each of its events. Its latched operands are those at acceptance (10_state R26). -/
theorem script_operation_run {s : State} {w : Word} {i : Instr} {es : List Event} {rest : List Answer}
    (hw : (w, i) ∈ legalWords) (ht : opTail i.op = .ends) (hoff : i ≠ .offset)
    (hfit : FromBringUp i → s.par.initParams.Fits) (hes : events i (accepted w i.op s) = es)
    (ho : Offered s w (List.replicate (es.countP fallible) .ok ++ rest)) :
    Host.Core.run core (1 + es.length) s = .next (endScript .ends (completedAll es (accepted w i.op s))) ∧
      Ended s (endScript .ends (completedAll es (accepted w i.op s))) es rest s.pix := by
  subst hes
  have hp := accepted_progress_script ho hw hfit hoff
  rw [ht] at hp
  obtain ⟨-, hpix, -⟩ := completedAll_fields (events i (accepted w i.op s)) (accepted w i.op s)
  exact ⟨(run_add (run_accept ho hw)).trans hp.run, hp.emitted.ended rfl hpix ho.env⟩

/-- Settles O37: acceptance latches `ARG`, `DX` and `DY`, and the ten events are WINDOW's script on the latch. -/
theorem windowSendsTheOffsetCorners : Obligations.WindowSendsTheOffsetCorners := by
  intro s rest ho
  have hlatched : events .window (accepted 0x0004 .window s) =
      windowEvents s.par.opc s.dx s.dy s.arg.a0 s.arg.a1 s.arg.a2 s.arg.a3 := rfl
  exact ⟨_, script_operation_run (i := .window) (by simp [legalWords]) rfl (by decide)
    (fun h => absurd h (by decide)) hlatched ho⟩

end Sys2Proof.Machine

/-! INIT whole (42_bringup R136, R137): with every answer OK, and aborted at a failed event. -/

namespace Sys2Proof.Machine

open Sys2Proof.Spec

/-! ### Every answer OK -/

theorem completedAll_pc (es : List Event) (s : State) : (completedAll es s).pc = s.pc + es.length := by
  induction es generalizing s with
  | nil => rfl
  | cons e es ih => rw [completedAll, ih, completed_pc, List.length_cons, Nat.add_assoc, Nat.add_comm 1]

/-- The last drive of the reset line is the fifth event, the last of D/C opens the DISPON frame (42_bringup R130). -/
theorem completedAll_initEvents_lines (par : Params) (cfg : Straps) (s : State) :
    (completedAll (initEvents par cfg) s).rstQ = .known .hi ∧
      (completedAll (initEvents par cfg) s).dcQ = .known .lo :=
  ⟨rfl, rfl⟩

/-- Settles O35: INIT's script is the 64 events of the table, and they set the lines and `PC`. -/
theorem initEmitsTheWholeScript : Obligations.InitEmitsTheWholeScript := by
  intro s rest hfit ho
  obtain ⟨hrun, hend⟩ := script_operation_run (i := .init) (by simp [legalWords]) rfl (by decide) (fun _ => hfit)
    (show events .init (accepted 0x0001 .init s) = initEvents s.par s.cfg from rfl) ho
  obtain ⟨hrst, hdc⟩ := completedAll_initEvents_lines s.par s.cfg (accepted 0x0001 .init s)
  exact ⟨_, hrun, hend, completedAll_pc _ _, hdc, hrst⟩

/-! ### A failed event -/

/-- From any of its events on, an instruction completes the events answered OK and aborts at the first answered FAIL, in
that event's own step (60_exceptions R202; log 14). -/
theorem run_to_failure {i : Instr} {s : State} {k : Nat} {es fs : List Event} {e : Event} {rest : List Answer}
    (hfit : FromBringUp i → s.par.initParams.Fits) (hi : i.op.instr s.latchedMode = i) (hhost : s.host = [])
    (hf : s.fsm = .run i.op) (hpos : s.pos = .script) (hes : (events i s).drop s.pc = es ++ e :: fs)
    (hfall : fallible e = true) (henv : s.env = List.replicate (es.countP fallible) .ok ++ .fail k :: rest) :
    Host.Core.run core (es.length + 1) s = .next (aborted e k (opTail i.op ≠ .ends) (completedAll es s)) := by
  induction es generalizing s with
  | nil =>
    have he : (events i s)[s.pc]? = some e := by
      rw [← List.head?_drop, hes]
      rfl
    have hfail : s.nextAnswer = .fail k := by
      rw [State.nextAnswer, henv]
      rfl
    exact run_one (by rw [step_running hhost hf, hi, exec_aborted hfit hf hpos he hfall hfail]; rfl)
  | cons d es ih =>
    have hd : (events i s)[s.pc]? = some d := by
      rw [← List.head?_drop, hes]
      rfl
    have hdrop : (events i s).drop (s.pc + 1) = es ++ e :: fs := by
      rw [← List.tail_drop, hes]
      rfl
    have hlt : s.pc + 1 < (events i s).length := by
      refine lt_of_not_ge fun hge => ?_
      rw [List.drop_eq_nil_of_le hge] at hdrop
      simp at hdrop
    obtain ⟨hans, henv'⟩ := completed_env henv
    have hstep : step s = .next (completed d s) := by
      rw [step_running hhost hf, hi, exec_completed hfit hf hpos hd hans, if_pos hlt]
    have hk := completed_kept d s
    have hmode : (completed d s).latchedMode = s.latchedMode := by simp [State.latchedMode, hk.opl]
    rw [List.length_cons, Nat.add_comm es.length 1, Nat.add_assoc, run_add (run_one hstep)]
    exact ih (hk.par ▸ hfit) (hmode ▸ hi) (hk.host.trans hhost) ((completed_fields d s).1.trans hf)
      ((completed_pos d s).trans hpos) (by rw [events_congr i hk.cfg hk.par hk.opl, completed_pc, hdrop]) henv'

/-- What an abort leaves, but for the lines and the bus (60_exceptions R202, R206). -/
theorem aborted_fields (e : Event) (k : Nat) (streamOpen : Bool) (s : State) :
    (aborted e k streamOpen s).tr = s.tr ++ [failed e] ∧
      (aborted e k streamOpen s).fsm = (if streamOpen then .drain else .idle) ∧
      (aborted e k streamOpen s).err = true ∧ (aborted e k streamOpen s).ill = s.ill ∧
      (aborted e k streamOpen s).pc = s.pc ∧ (aborted e k streamOpen s).env = s.env.tail := by
  rcases e with ⟨_ | _, _, _⟩ | _ | _ <;> exact ⟨rfl, rfl, rfl, rfl, rfl, rfl⟩

/-- An offered operation whose event number `j` is the first answered FAIL is accepted, completes the events before it
and aborts there. -/
theorem offered_operation_aborts {s : State} {w : Word} {i : Instr} {j k : Nat} {es : List Event} {e : Event}
    {rest : List Answer} (hw : (w, i) ∈ legalWords) (hfit : FromBringUp i → s.par.initParams.Fits)
    (hes : events i (accepted w i.op s) = es) (he : es[j]? = some e) (hfall : fallible e = true)
    (ho : Offered s w (List.replicate ((es.take j).countP fallible) .ok ++ .fail k :: rest)) :
    Host.Core.run core (1 + ((es.take j).length + 1)) s =
      .next (aborted e k (opTail i.op ≠ .ends) (completedAll (es.take j) (accepted w i.op s))) := by
  obtain ⟨hj, hget⟩ := List.getElem?_eq_some_iff.1 he
  have hsplit : (events i (accepted w i.op s)).drop 0 = es.take j ++ e :: es.drop (j + 1) := by
    rw [hes, ← hget, ← List.drop_eq_getElem_cons hj, List.take_append_drop, List.drop_zero]
  rw [run_add (run_accept ho hw)]
  exact run_to_failure (s := accepted w i.op s) hfit (op_instr_of_legal hw) ho.host rfl rfl hsplit hfall ho.env

/-- Settles O34: INIT is idle after its abort, as no token loop follows its script. -/
theorem initAbortsAtTheFailedEvent : Obligations.InitAbortsAtTheFailedEvent := by
  intro s j k e rest hfit he hfall ho
  have hrun := offered_operation_aborts (i := .init) (by simp [legalWords]) (fun _ => hfit)
    (show events .init (accepted 0x0001 .init s) = initEvents s.par s.cfg from rfl) he hfall ho
  obtain ⟨hj, -⟩ := List.getElem?_eq_some_iff.1 he
  generalize hbefore : (initEvents s.par s.cfg).take j = before at hrun ho ⊢
  have hlen : before.length = j := hbefore ▸ List.length_take_of_le hj.le
  rw [hlen, Nat.add_comm 1 (j + 1)] at hrun
  have hk := completedAll_kept before (accepted 0x0001 .init s)
  obtain ⟨-, -, -, htr⟩ := completedAll_fields before (accepted 0x0001 .init s)
  have hpc : (completedAll before (accepted 0x0001 .init s)).pc = j := by
    rw [completedAll_pc, hlen]
    exact Nat.zero_add j
  have henv := completedAll_env (s := accepted 0x0001 .init s) ho.env
  obtain ⟨atr, afsm, aerr, aill, apc, aenv⟩ :=
    aborted_fields e k false (completedAll before (accepted 0x0001 .init s))
  exact ⟨_, hrun, atr.trans (congrArg (· ++ [failed e]) htr), afsm, aerr, aill.trans hk.ill, apc.trans hpc,
    aenv.trans (congrArg List.tail henv)⟩

end Sys2Proof.Machine

/-! ORIENT whole (43_orientation R150 to R152), every answer OK. -/

namespace Sys2Proof.Machine

open Sys2Proof.Spec

/-- Settles O36: the four events are ORIENT's script, which reads the mode, the straps and the parameters and nothing of
the latch, so they are the same before and after acceptance. -/
theorem orientSendsTheOrientationByte : Obligations.OrientSendsTheOrientationByte := by
  intro s m w rest hw ho
  have hfit : ¬ FromBringUp (.orient m) := by cases m <;> decide
  have hevents : events (.orient m) (accepted w .orient s) = orientEvents s.par s.cfg m := rfl
  exact ⟨_, script_operation_run (i := .orient m) hw rfl nofun (fun h => absurd h hfit) hevents ho⟩

end Sys2Proof.Machine

/-! OFFSET (44_offset R160): its own step, and the whole operation. -/

namespace Sys2Proof.Machine

open Sys2Proof.Spec

/-- Settles O21: a running OFFSET writes the latched operands and finishes. -/
theorem offsetWritesTheOffsets : Obligations.OffsetWritesTheOffsets :=
  fun _ hf => exec_offset_running hf

/-- With the host leaving it to run, OFFSET ends in its first step, which draws no answer. -/
theorem step_offset {s : State} (hhost : s.host = []) (hf : s.fsm = .run .offset) :
    step s = .next (finish (writeOffset s)) :=
  (step_nil hhost).trans (blockStep_offset hf)

/-- Acceptance clears `ERR` and `ILL` (10_state R38), so a busy block's `STATUS` reads BUSY alone (10_state R27). -/
theorem accepted_statusWord (w : Word) (op : Op) (s : State) : (accepted w op s).statusWord = 1 := by
  simp [State.statusWord, State.busy, accepted]

/-- Settles O39: the second step writes the operands latched at acceptance, which are `ARG` (10_state R26). -/
theorem offsetTakesTwoSteps : Obligations.OffsetTakesTwoSteps := by
  intro s answers ho
  have haccept := run_accept (i := .offset) ho (by simp [legalWords])
  have hwrite : step (accepted 0x0003 .offset s) = .next (finish (writeOffset (accepted 0x0003 .offset s))) :=
    step_offset ho.host rfl
  exact ⟨haccept, accepted_statusWord _ _ s, (run_add haccept).trans (run_one hwrite)⟩

end Sys2Proof.Machine

/-! The drawing operations (45_drawing): one step of the unbuffered loop; PIXEL and the unbuffered streams, whole, with
every answer OK. -/

namespace Sys2Proof.Machine

open Sys2Proof.Spec

/-! ### One step of the unbuffered loop (45_drawing R171) -/

theorem wordsToken_nil {s : State} (hpix : s.pix = []) : wordsToken s = s := by simp only [wordsToken, hpix]

theorem wordsToken_word {s : State} {w : Word} {rest : List Token} (hpix : s.pix = .word w :: rest) :
    wordsToken s = { s with pix := rest, pc := s.pc + 1, pos := .write w } := by
  simp only [wordsToken, hpix]
  rfl

theorem wordsToken_last {s : State} {rest : List Token} (hpix : s.pix = .last :: rest) :
    wordsToken s = { s with pix := rest, pc := s.pc + 1, pos := .script, fsm := .idle } := by
  simp only [wordsToken, hpix]
  rfl

section Unbuffered

variable {i : Instr} (hi : i = .wpix ∨ i = .spix)

include hi

theorem opTail_unbuffered : opTail i.op = .words := by rcases hi with rfl | rfl <;> rfl

theorem exec_unbuffered {s : State} (hf : s.fsm = .run i.op) : exec i s = runStep (instrScript i s) .words s := by
  have hoff : i ≠ .offset := by rcases hi with rfl | rfl <;> decide
  rw [exec_running hf hoff, opTail_unbuffered hi]

theorem exec_unbuffered_token {s : State} (hf : s.fsm = .run i.op) (hpos : s.pos = .token) :
    exec i s = .next (wordsToken s) := by
  rw [exec_unbuffered hi hf, runStep_words hpos]

end Unbuffered

/-- Settles O28: at the token place the next token decides, and the held word is written. -/
theorem unbufferedLoopSendsEachWord : Obligations.UnbufferedLoopSendsEachWord := by
  intro s i hi hf
  refine ⟨fun hpos hpix => ?_, fun w rest hpos hpix => ?_, fun w hpos ha => ?_, fun rest hpos hpix => ?_⟩
  · rw [exec_unbuffered_token hi hf hpos, wordsToken_nil hpix]
  · rw [exec_unbuffered_token hi hf hpos, wordsToken_word hpix]
  · rw [exec_unbuffered hi hf, runStep_write hpos, writeStep_completed w ha]
  · rw [exec_unbuffered_token hi hf hpos, wordsToken_last hpix]

/-! ### Whole operations -/

/-- Settles O38: acceptance latches `ARG`, `DX` and `DY`, and the fourteen events are PIXEL's script on the latch. -/
theorem pixelSendsWindowAndColour : Obligations.PixelSendsWindowAndColour := by
  intro s rest ho
  have hlatched : events .pixel (accepted 0x0005 .pixel s) =
      pixelEvents s.par.opc s.dx s.dy s.arg.a0 s.arg.a1 s.arg.a2 := rfl
  exact ⟨_, script_operation_run (i := .pixel) (by simp [legalWords]) rfl (by decide)
    (fun h => absurd h (by decide)) hlatched ho⟩

/-- Each word's write takes one answer (20_memory R55). -/
theorem countP_fallible_wordWrites (ws : List Word) :
    (ws.map fun w => wr (bigEndian w)).countP fallible = ws.length := by
  have hwrites : (ws.map fun w => wr (bigEndian w)) = (ws.map bigEndian).map wr := by rw [List.map_map]; rfl
  rw [hwrites, countP_fallible_writes, List.length_map]

/-- An unbuffered stream operation whose head is `n` fallible events ends after them and one write a word (45_drawing
R171, R173). -/
theorem words_stream_ended {s : State} {w : Word} {i : Instr} {es : List Event} {n : Nat} {ws : List Word}
    {more : List Token} {rest : List Answer} (hw : (w, i) ∈ legalWords) (hi : i = .wpix ∨ i = .spix)
    (hpix : s.pix = ws.map .word ++ .last :: more) (hes : events i (accepted w i.op s) = es) (hlen : es.length = n)
    (hfall : es.countP fallible = n) (ho : Offered s w (List.replicate (n + ws.length) .ok ++ rest)) :
    ∃ t, Host.Core.run core (2 + n + 2 * ws.length) s = .next t ∧
      Ended s t (es ++ ws.map fun w => wr (bigEndian w)) rest more := by
  obtain ⟨t, hrun, hem, hidle, hmore⟩ := words_stream_run (i := i) hw hi hpix (by rwa [hes, hfall])
  rw [hes] at hrun hem
  have hans : s.env = List.replicate ((es ++ ws.map fun w => wr (bigEndian w)).countP fallible) .ok ++ rest := by
    rw [List.countP_append, hfall, countP_fallible_wordWrites]
    exact ho.env
  refine ⟨t, ?_, hem.ended hidle hmore hans⟩
  rw [← hrun, hlen]
  congr 1
  omega

/-- Settles O40: the head of WPIX is the RAMWR frame's three events, that of SPIX the window's ten before them. -/
theorem unbufferedStreamSendsOneWriteAWord : Obligations.UnbufferedStreamSendsOneWriteAWord := by
  intro s ws more rest hpix
  refine ⟨fun ho => ?_, fun ho => ?_⟩
  · exact words_stream_ended (i := .wpix) (by simp [legalWords]) (.inl rfl) hpix rfl rfl rfl ho
  · exact words_stream_ended (i := .spix) (by simp [legalWords]) (.inr rfl) hpix rfl rfl rfl ho

end Sys2Proof.Machine

/-! The exceptions (60_exceptions): an illegal word refused, one step of a drain, and a drain to its end. -/

namespace Sys2Proof.Machine

open Sys2Proof.Spec

/-! ### An illegal word (60_exceptions R203) -/

/-- A word that is none of the twelve does not decode (30_encoding R73). -/
theorem decodeCommand_of_not_legal {w : Word} (hw : ∀ i, (w, i) ∉ legalWords) :
    ∃ e, decodeCommand w = .rejected e := by
  cases hd : decodeCommand w with
  | instr i => exact absurd (mem_legalWords_of_decodeCommand hd) (hw i)
  | rejected e => exact ⟨e, rfl⟩

/-- An idle block takes a word that does not decode for an illegal command (10_state R38). -/
theorem fetch_illegal {s : State} {w : Word} {e : DecodeError} (hf : s.fsm = .idle) (hslot : s.framePort = none)
    (hport : s.cmdPort = some w) (hd : decodeCommand w = .rejected e) : fetch s = .illegal := by
  simp only [fetch, hf, hslot, hport, hd]

/-- Settles O12: the word does not decode, so the block's move is the refusal. -/
theorem illegalWordOnlySetsIll : Obligations.IllegalWordOnlySetsIll := by
  intro s u w hturn hf hslot hport hw
  obtain ⟨e, hd⟩ := decodeCommand_of_not_legal hw
  rw [step_block hturn, blockStep, fetch_illegal hf hslot hport hd]
  rfl

/-! ### Draining (60_exceptions R202) -/

theorem drainToken_nil {s : State} (hpix : s.pix = []) : drainToken s = s := by simp only [drainToken, hpix]

theorem drainToken_word {s : State} {w : Word} {rest : List Token} (hpix : s.pix = .word w :: rest) :
    drainToken s = { s with pix := rest } := by
  simp only [drainToken, hpix]

theorem drainToken_last {s : State} {rest : List Token} (hpix : s.pix = .last :: rest) :
    drainToken s = { s with pix := rest, fsm := .idle, pos := .script } := by
  simp only [drainToken, hpix]

/-- Settles O51: the next token decides. -/
theorem drainStepTakesAtMostOneToken : Obligations.DrainStepTakesAtMostOneToken := by
  intro s u hturn hf
  rw [step_block_drain hturn hf]
  refine ⟨fun hpix => ?_, fun w rest hpix => ?_, fun rest hpix => ?_⟩
  · rw [drainToken_nil hpix]
  · rw [drainToken_word hpix]
  · rw [drainToken_last hpix]

/-- Settles O33, by induction on the words still to be discarded. -/
theorem drainDiscardsTheStreamUpToItsEnd : Obligations.DrainDiscardsTheStreamUpToItsEnd := by
  intro s ws rest hhost hf hpix
  induction ws generalizing s with
  | nil =>
    obtain ⟨-, -, hlast⟩ := drainStepTakesAtMostOneToken s s (hostTurn_nil hhost) hf
    exact run_one (hlast rest hpix)
  | cons w ws ih =>
    obtain ⟨-, hword, -⟩ := drainStepTakesAtMostOneToken s s (hostTurn_nil hhost) hf
    have hnext : s.pix = .word w :: (ws.map .word ++ .last :: rest) := hpix
    have hdiscard := run_one (hword w _ hnext)
    rw [List.length_cons, Nat.add_right_comm, Nat.add_comm, run_add hdiscard]
    exact ih { s with pix := ws.map .word ++ .last :: rest } hhost hf rfl

end Sys2Proof.Machine

/-! Block reset (70_reset R230, R231): its values, the invariants it meets, its step, and the wait for a command. -/

namespace Sys2Proof.Machine

/-! ### The state after reset -/

/-- Not BUSY, and neither flag set (10_state R27). -/
theorem State.statusWord_of_idle {s : State} (hf : s.fsm = .idle) (herr : s.err = false) (hill : s.ill = false) :
    s.statusWord = 0 := by
  simp [State.statusWord, State.busy_eq_decide, hf, herr, hill]

@[simp] theorem State.resetWith_statusWord (cfg : Straps) (par : Params) : (State.resetWith cfg par).statusWord = 0 :=
  State.statusWord_of_idle (State.resetWith_fsm cfg par) (State.resetWith_err cfg par) (State.resetWith_ill cfg par)

/-- Settles O1: each row of R230's table is a law of `State.resetWith`. -/
theorem resetLeavesTheStatedValues : Obligations.ResetLeavesTheStatedValues := by
  intro cfg par
  simp [Operands.all]

/-- A reset of the state after reset changes nothing. -/
theorem blockReset_resetWith (cfg : Straps) (par : Params) :
    blockReset (State.resetWith cfg par) = State.resetWith cfg par := rfl

/-- Settles O2: a block reset meets the invariant, and with the block idle and no byte delivered the D/C discipline asks
for nothing. -/
theorem resetMeetsTheInvariants : Obligations.ResetMeetsTheInvariants := by
  intro cfg par hpar
  constructor
  · rw [← blockReset_resetWith]
    exact State.Inv.blockReset hpar
  · exact .of_not_running (by simp) (by simp)

/-! ### The step of a reset, and the step of a waiting block -/

/-- The host's reset is one step, whatever the block was doing (70_reset R231). -/
theorem step_blockReset {s : State} {more : List HostAction} (h : s.host = .blockReset :: more) :
    step s = .next (blockReset { s with host := more }) := by
  simp only [step, hostTurn, h]

/-- Settles O45: the block's own fields are those of the reset table, and what lies outside it is kept (log 19). -/
theorem resetAbandonsTheOperation : Obligations.ResetAbandonsTheOperation := by
  intro s more h
  obtain ⟨hcfg, hdx, hdy, harg, hstatus, -, -, hfsm, hpc, hidx, hdc, hrst, htr⟩ :=
    resetLeavesTheStatedValues s.cfg s.par
  exact ⟨_, step_blockReset h, hcfg, State.resetWith_par s.cfg s.par, hdx, hdy, harg, hstatus, hfsm, hpc, hidx, hdc,
    hrst, htr, rfl, rfl, rfl, rfl⟩

theorem fetch_wait {s : State} (hf : s.fsm = .idle) (hslot : s.framePort = none) (hport : s.cmdPort = none) :
    fetch s = .wait := by
  simp only [fetch, hf, hslot, hport]

/-- Settles O50: the block fetches nothing. -/
theorem idleBlockWaitsForACommand : Obligations.IdleBlockWaitsForACommand := by
  intro s u hturn hf hslot hport
  rw [step_block hturn, blockStep, fetch_wait hf hslot hport]

end Sys2Proof.Machine
